-- ==== Sys2Proof/Word.lean ====
section
/-! DEFINITION. The byte, and the four-byte address of rule R12 kept in frame order (rule R21). -/

namespace Sys2Proof

/-- A byte: 8 bits, bit 7 the most significant (rule R5). -/
abbrev Byte := BitVec 8

/-- An address field: the four bytes in frame order, `b0` the byte at the lowest offset (rule R21). -/
structure Addr where
  b0 : Byte
  b1 : Byte
  b2 : Byte
  b3 : Byte
  deriving DecidableEq, Repr

end Sys2Proof
end

