-- ==== Sys2Proof/Config.lean ====
section
/-! DEFINITION. The parameters of rule R4: the constants the source gives, the parameter one instance of the
block is built with, and the one free value of the model. `LAT` is left out: it appears in no rule (R157). -/

namespace Sys2Proof.Config

/-- `MAXF`, the largest frame length in bytes (rules R4, R42). -/
def maxf : Nat := 1500

/-- `IPH_MIN`, the least frame length that is decoded at all (rules R4, R70). -/
def iphMin : Nat := 20

/-- `TCP_MIN`, the bytes that must remain at the transport offset for TCP (rules R4, R55). -/
def tcpMin : Nat := 20

/-- `UDP_MIN`, the bytes that must remain at the transport offset for UDP (rules R4, R55). -/
def udpMin : Nat := 8

/-- `PROTO_TCP` (rule R4). -/
def protoTcp : Byte := 6

/-- `PROTO_UDP` (rule R4). -/
def protoUdp : Byte := 17

/-- `IHL_UNIT`, the bytes in one unit of IHL (rule R4). -/
def ihlUnit : Nat := 4

/-- The least IHL the optional test `IHLCHK` lets pass (rule R92). -/
def ihlMin : Nat := 5

/-- What one instance of the block is built with, constant while it runs (rules R4, R18). -/
structure Build where
  /-- `IHL_MIN_CHECK`; the default `false` is the reference behaviour (rule R4, decision D4). -/
  ihlMinCheck : Bool := false
  deriving DecidableEq, Repr

/-- FREE VALUE: what a byte of `FB` reads as that no agent of the model has written since the last reset
(rules R20, R43; U5, U10: any value). Arguments: the counter `State.fbEpoch`, and the byte's offset.
DESIGN CHOICE, safe (assumption 2): nothing in Lean can tell which byte it is. -/
opaque fbResidue : Nat → Nat → Byte

end Sys2Proof.Config
end

