-- ==== Sys2Proof/Syntax.lean ====
section
/-! DEFINITION. The 17 micro-operations of spec/opcode_table.json, the places of the fixed algorithm they run
at, and what the agents around the block can do (rules R7, R62, R136). -/

namespace Sys2Proof

/-- The rows of spec/opcode_table.json, in the table's order (rules R7, R62). A micro-operation has no operand
of its own: it works on the frame, the report and `TOFF`. -/
inductive Instr where
  /-- `DECODE`: the whole decode (R110). -/
  | decode
  /-- `LENGUARD`: the length guard (R70). -/
  | lenguard
  /-- `XVER`: extract the version (R80). -/
  | xver
  /-- `XIHL`: extract the header length (R81). -/
  | xihl
  /-- `XTOTLEN`: extract the total length (R82). -/
  | xtotlen
  /-- `XPROTO`: extract the protocol identifier (R83). -/
  | xproto
  /-- `XSRC`: extract the source address (R84). -/
  | xsrc
  /-- `XDST`: extract the destination address (R85). -/
  | xdst
  /-- `TOFFCALC`: compute the transport offset (R90). -/
  | toffcalc
  /-- `IHLCHK`: the optional minimum-IHL test (R92). -/
  | ihlchk
  /-- `TCPFIT`: the TCP length test (R71). -/
  | tcpfit
  /-- `UDPFIT`: the UDP length test (R72). -/
  | udpfit
  /-- `DISPATCH.TCP`: arm 1 of the dispatch (R54, R91). -/
  | dispatchTcp
  /-- `DISPATCH.UDP`: arm 2 of the dispatch (R54, R91). -/
  | dispatchUdp
  /-- `DISPATCH.ELSE`: the failure arm of the dispatch (R54, R91). -/
  | dispatchElse
  /-- `XSPORT`: extract the source port (R100). -/
  | xsport
  /-- `XDPORT`: extract the destination port (R101). -/
  | xdport
  deriving DecidableEq, Repr

/-- A place of the algorithm. All rows but the three of `DISPATCH` are told by their place alone; at a
dispatch place the rows are tried in order from the row named on (rule R62). -/
inductive Place where
  /-- The whole-frame operation `DECODE`. -/
  | whole
  /-- Step 1. -/
  | guard
  /-- Step 2, the version. -/
  | version
  /-- Step 2, the header length. -/
  | headerLength
  /-- Step 2, the total length. -/
  | totalLength
  /-- Step 2, the protocol identifier. -/
  | protocol
  /-- Step 2, the source address. -/
  | source
  /-- Step 2, the destination address. -/
  | destination
  /-- Step 3, the transport offset. -/
  | offset
  /-- Step 3, the optional minimum-IHL test. -/
  | ihlCheck
  /-- Inside the TCP arm: its length test. -/
  | tcpTest
  /-- Inside the UDP arm: its length test. -/
  | udpTest
  /-- Step 3, the dispatch: rows from `DISPATCH.TCP` on. -/
  | tcpRow
  /-- Step 3, the dispatch after `DISPATCH.TCP` fell through: rows from `DISPATCH.UDP` on. -/
  | udpRow
  /-- Step 3, the dispatch after `DISPATCH.UDP` fell through: the row `DISPATCH.ELSE`. -/
  | elseRow
  /-- Step 4, the source port. -/
  | sourcePort
  /-- Step 4, the destination port. -/
  | destinationPort
  deriving DecidableEq, Repr

/-- The six values read from the IP header (rules R12, R51). -/
structure IpFields where
  ver    : BitVec 4
  ihl    : BitVec 4
  totlen : BitVec 16
  proto  : Byte
  src    : Addr
  dst    : Addr
  deriving DecidableEq, Repr

/-- The eight bytes of format `IPH` that no rule reads (rules R34, R51, R57). -/
structure UnreadBytes where
  b1  : Byte
  b4  : Byte
  b5  : Byte
  b6  : Byte
  b7  : Byte
  b8  : Byte
  b10 : Byte
  b11 : Byte
  deriving DecidableEq, Repr

/-- The formats of spec/opcode_table.json (rules R50, R62). -/
inductive Format where
  | frame | len | iph | calc | disp | l4p
  deriving DecidableEq, Repr

/-- One row of spec/opcode_table.json: its operation, its format, the bits that select it (`match` under
`mask`; both 0 where no bit does) and the bits the row reads as its fields, numbered as in rules R51 and R52. -/
structure Row where
  instr    : Instr
  format   : Format
  nbits    : Nat
  pattern  : Nat
  mask     : Nat
  readMask : Nat
  deriving DecidableEq, Repr

/-- The registers of the report a consumer can name (rules R12, R14, R15). -/
inductive Reg where
  | st | ipv | l4v | l4k | ver | ihl | totlen | proto | src | dst | sport | dport
  deriving DecidableEq, Repr

/-- What the agents around the block do, one at a time. `reset`, `present` and `readReport` are the events
and the observation of rule R136; the others are the model's finer view (assumptions 4, 5, 12, 16). -/
inductive Event where
  /-- The environment's reset (R150, R151). -/
  | reset
  /-- The Frame Source hands over a frame and the block decodes it, in one atomic step (R136). `frame` is what
  the Frame Source put into `FB` from byte 0 on, `flen` the length it states in `FLEN` (R155: the block trusts it). -/
  | present (frame : List Byte) (flen : Nat)
  /-- The same hand-over with the decode performed one micro-operation a step (R151, R153, R154). -/
  | start (frame : List Byte) (flen : Nat)
  /-- The block's turn: it performs one micro-operation of a decode in progress, or holds its state. -/
  | tick
  /-- The Frame Source writes one byte of `FB` outside a hand-over (R22, R153). -/
  | write (offset : Nat) (byte : Byte)
  /-- The Frame Source writes `FLEN` outside a hand-over (R22, R153). -/
  | setFlen (flen : Nat)
  /-- The consumer reads the report (R136). -/
  | readReport
  /-- The consumer reads one register of the report (R13, R134). -/
  | readReg (reg : Reg)
  deriving DecidableEq, Repr

end Sys2Proof
end

