-- ==== Sys2Proof/WellFormed.lean ====
section
/-! DEFINITION. Which micro-operations a build has, and which frames can be presented. -/

namespace Sys2Proof

/-- The micro-operation exists in the build: `IHLCHK` exists only when `IHL_MIN_CHECK` is true (rule R92);
every other row exists in every build. -/
def Instr.wellFormed (b : Config.Build) : Instr → Bool
  | .ihlchk => b.ihlMinCheck
  | .decode | .lenguard | .xver | .xihl | .xtotlen | .xproto | .xsrc | .xdst | .toffcalc | .tcpfit
  | .udpfit | .dispatchTcp | .dispatchUdp | .dispatchElse | .xsport | .xdport => true

/-- The frame fits `FB` and its stated length is a legal value of `FLEN` (rules R11, R42). -/
def framePresentable (frame : List Byte) (flen : Nat) : Bool :=
  decide (frame.length ≤ Config.maxf) && decide (flen ≤ Config.maxf)

/-- The event names only frames that can be presented, bytes of `FB` that exist and legal lengths
(rules R11, R42). -/
def Event.wellFormed : Event → Bool
  | .present frame flen => framePresentable frame flen
  | .start frame flen => framePresentable frame flen
  | .write offset _ => decide (offset < Config.maxf)
  | .setFlen flen => decide (flen ≤ Config.maxf)
  | .reset | .tick | .readReport | .readReg _ => true

end Sys2Proof
end

