-- ==== Sys2Proof/Decode.lean ====
section
/-! DEFINITION. The layout of the frame (rules R50 to R53), the dispatch map (R54), the selection of
micro-operations (R62), and after them the encoder. -/

namespace Sys2Proof

/-! ## Bit fields and byte order (rules R5, R31) -/

/-- Bits 7:4 of a byte (rule R5). -/
def hiNibble (b : Byte) : BitVec 4 := b.extractLsb' 4 4

/-- Bits 3:0 of a byte (rule R5). -/
def loNibble (b : Byte) : BitVec 4 := b.extractLsb' 0 4

/-- Two bytes as a big-endian 16-bit number: the byte at the lower offset first (rules R6, R31). -/
def be16 (hi lo : Byte) : BitVec 16 := hi ++ lo

/-- An address as a number, `b0` the most significant byte (rule R21). -/
def Addr.toWord (a : Addr) : BitVec 32 := a.b0 ++ a.b1 ++ a.b2 ++ a.b3

/-- `TOFF` from `IHL`: `zext_6(IHL) * 4` (rules R53, R90). -/
def transportOffset (ihl : BitVec 4) : BitVec 6 := ihl.setWidth 6 * BitVec.ofNat 6 Config.ihlUnit

/-! ## The formats -/

/-- The six fields of format `IPH` in the frame with bytes `F` (rules R51, R53). -/
def ipFieldsOf (F : Nat → Byte) : IpFields :=
  { ver := hiNibble (F 0)
    ihl := loNibble (F 0)
    totlen := be16 (F 2) (F 3)
    proto := F 9
    src := ⟨F 12, F 13, F 14, F 15⟩
    dst := ⟨F 16, F 17, F 18, F 19⟩ }

/-- Source port of format `L4P` at offset `toff` (rules R52, R53). -/
def sourcePortAt (F : Nat → Byte) (toff : Nat) : BitVec 16 := be16 (F toff) (F (toff + 1))

/-- Destination port of format `L4P` at offset `toff` (rules R52, R53). -/
def destPortAt (F : Nat → Byte) (toff : Nat) : BitVec 16 := be16 (F (toff + 2)) (F (toff + 3))

/-- The first `n` bytes of `F` as one number, `F 0` the most significant byte: the bit string of rules R51
(`n` = 20) and R52 (`n` = 4). -/
def bytesNumber (F : Nat → Byte) : Nat → Nat
  | 0 => 0
  | n + 1 => bytesNumber F n * 256 + (F n).toNat

/-! ## The table, and the selection of a micro-operation -/

/-- spec/opcode_table.json, row by row in its order (rule R62). A row that no bit selects has mask 0. -/
def opcodeTable : List Row :=
  [ ⟨.decode, .frame, 160, 0, 0, 0xFF00FFFF0000000000FF0000FFFFFFFFFFFFFFFF⟩,
    ⟨.lenguard, .len, 8, 0, 0, 0⟩,
    ⟨.xver, .iph, 160, 0, 0, 0xF <<< 156⟩,
    ⟨.xihl, .iph, 160, 0, 0, 0xF <<< 152⟩,
    ⟨.xtotlen, .iph, 160, 0, 0, 0xFFFF <<< 128⟩,
    ⟨.xproto, .iph, 160, 0, 0, 0xFF <<< 80⟩,
    ⟨.xsrc, .iph, 160, 0, 0, 0xFFFFFFFF <<< 32⟩,
    ⟨.xdst, .iph, 160, 0, 0, 0xFFFFFFFF⟩,
    ⟨.toffcalc, .calc, 8, 0, 0, 0⟩,
    ⟨.ihlchk, .calc, 8, 0, 0, 0⟩,
    ⟨.tcpfit, .len, 8, 0, 0, 0⟩,
    ⟨.udpfit, .len, 8, 0, 0, 0⟩,
    ⟨.dispatchTcp, .disp, 8, 0x06, 0xFF, 0xFF⟩,
    ⟨.dispatchUdp, .disp, 8, 0x11, 0xFF, 0xFF⟩,
    ⟨.dispatchElse, .disp, 8, 0x00, 0x00, 0xFF⟩,
    ⟨.xsport, .l4p, 32, 0, 0, 0xFFFF0000⟩,
    ⟨.xdport, .l4p, 32, 0, 0, 0x0000FFFF⟩ ]

/-- The rows of the dispatch map in the order they are tried: those of format `DISP` (rules R54, R62). -/
def dispatchRows : List Row := opcodeTable.filter fun r => r.format == .disp

/-- `(PROTO & mask) == match` (rule R62). -/
def Row.selectedBy (r : Row) (proto : Byte) : Bool := (proto.toNat &&& r.mask) == r.pattern

/-- The first row of the list that the protocol byte selects (rule R62). -/
def selectRow (proto : Byte) : List Row → Option Instr
  | [] => none
  | r :: rs => if r.selectedBy proto then some r.instr else selectRow proto rs

/-- Why bits give no micro-operation. -/
inductive Reject where
  /-- At a dispatch place there is no protocol byte to select a row by. -/
  | noSelector
  /-- The rows at the place are exhausted; cannot happen, since the last row matches every byte (R54). -/
  | noRow
  /-- No format of the table has this many bytes. -/
  | noFormat (bytes : Nat)
  deriving DecidableEq, Repr

/-- The row of the dispatch map that the protocol byte selects, the first `skip` rows left out. -/
def selectFrom (skip : Nat) : Option Byte → Except Reject Instr
  | none => .error .noSelector
  | some proto =>
    match selectRow proto (dispatchRows.drop skip) with
    | some i => .ok i
    | none => .error .noRow

/-- The micro-operation at a place: told by the place alone, but at the dispatch by the protocol byte
(rules R54, R62). -/
def decodeAt (p : Place) (proto : Option Byte) : Except Reject Instr :=
  match p with
  | .whole => .ok .decode
  | .guard => .ok .lenguard
  | .version => .ok .xver
  | .headerLength => .ok .xihl
  | .totalLength => .ok .xtotlen
  | .protocol => .ok .xproto
  | .source => .ok .xsrc
  | .destination => .ok .xdst
  | .offset => .ok .toffcalc
  | .ihlCheck => .ok .ihlchk
  | .tcpTest => .ok .tcpfit
  | .udpTest => .ok .udpfit
  | .tcpRow => selectFrom 0 proto
  | .udpRow => selectFrom 1 proto
  | .elseRow => selectFrom 2 proto
  | .sourcePort => .ok .xsport
  | .destinationPort => .ok .xdport

/-- The places a decode visits after its transport offset: the optional test, then the dispatch (rules R17, R62,
R92). -/
def placesAfterOffset (b : Config.Build) : List Place := if b.ihlMinCheck then [.ihlCheck, .tcpRow] else [.tcpRow]

/-- The places a decode visits after its length guard has passed, in the fixed order (rules R17, R62, R86). -/
def placesAfterGuard (b : Config.Build) : List Place :=
  .version :: .headerLength :: .totalLength :: .protocol :: .source :: .destination :: .offset
    :: placesAfterOffset b

/-- The places of a whole decode (rules R17, R62). -/
def decodePlaces (b : Config.Build) : List Place := .guard :: placesAfterGuard b

/-- The micro-operation a bit pattern selects with no place given, by its number of bytes: one byte is a
protocol identifier (the dispatch map), four bytes are format `L4P` (the first of its two rows), twenty are
format `IPH` of a whole frame. DEDUCED (assumption 8). -/
def decode (bytes : List Byte) : Except Reject Instr :=
  match bytes.length with
  | 1 => decodeAt .tcpRow bytes.head?
  | 4 => decodeAt .sourcePort bytes.head?
  | 20 => decodeAt .whole bytes.head?
  | n => .error (.noFormat n)

/-- The `n` bytes of a number of `8 * n` bits, the most significant first (rules R51, R52). -/
def wordBytes : Nat → Nat → List Byte
  | 0, _ => []
  | n + 1, w => BitVec.ofNat 8 (w >>> (8 * n)) :: wordBytes n w

/-- The micro-operation read from a word of `nbits` bits numbered as the table numbers them (rules R51, R52:
the highest bit is bit 7 of the first byte). DEDUCED (assumption 7). -/
def decodeTableWord (nbits w : Nat) : Option Instr :=
  match decode (wordBytes (nbits / 8) w) with
  | .ok i => some i
  | .error _ => none

/-! ## The encoder -/

/-- The place a micro-operation is selected at (rule R62). -/
def placeOf : Instr → Place
  | .decode => .whole
  | .lenguard => .guard
  | .xver => .version
  | .xihl => .headerLength
  | .xtotlen => .totalLength
  | .xproto => .protocol
  | .xsrc => .source
  | .xdst => .destination
  | .toffcalc => .offset
  | .ihlchk => .ihlCheck
  | .tcpfit => .tcpTest
  | .udpfit => .udpTest
  | .dispatchTcp | .dispatchUdp | .dispatchElse => .tcpRow
  | .xsport => .sourcePort
  | .xdport => .destinationPort

/-- The bits that select a micro-operation at its place, every unread bit and every field bit 0
(spec/opcode_table.json; rules R51, R52, R54). Rows of formats `LEN` and `CALC` have no bits. -/
def encode : Instr → List Byte
  | .dispatchTcp => [0x06]
  | .dispatchUdp => [0x11]
  | .dispatchElse => [0x00]
  | .lenguard | .toffcalc | .ihlchk | .tcpfit | .udpfit => []
  | .decode | .xver | .xihl | .xtotlen | .xproto | .xsrc | .xdst => wordBytes 20 0
  | .xsport | .xdport => wordBytes 4 0

/-- The two bytes of a 16-bit field, the more significant first (rule R31). -/
def be16Bytes (v : BitVec 16) : List Byte := [v.extractLsb' 8 8, v.extractLsb' 0 8]

/-- The four bytes of an address, verbatim (rule R21). -/
def Addr.bytes (a : Addr) : List Byte := [a.b0, a.b1, a.b2, a.b3]

/-- Format `IPH`: the 20 bytes that hold the six fields and the eight unread bytes (rule R51). -/
def encodeIph (h : IpFields) (u : UnreadBytes) : List Byte :=
  [h.ver ++ h.ihl, u.b1] ++ be16Bytes h.totlen ++ [u.b4, u.b5, u.b6, u.b7, u.b8, h.proto, u.b10, u.b11]
    ++ h.src.bytes ++ h.dst.bytes

/-- Format `L4P`: the four bytes that hold the two ports (rule R52). -/
def encodePorts (sport dport : BitVec 16) : List Byte := be16Bytes sport ++ be16Bytes dport

/-- A whole frame in the ordinary layout of rule R61: `IPH`, `gap` (the bytes from offset 20 to `TOFF`),
`L4P`, and the rest of the transport header and the payload. -/
def encodeFrame (h : IpFields) (u : UnreadBytes) (gap : List Byte) (sport dport : BitVec 16)
    (rest : List Byte) : List Byte :=
  encodeIph h u ++ gap ++ encodePorts sport dport ++ rest

end Sys2Proof
end

