-- ==== Sys2Proof/Machine/State.lean ====
section
/-! DEFINITION. The state of the block and of the agents around it, the reasons a step stops, and the state
after reset (rules R10 to R22; the model's own fields: assumptions 2 to 5). -/

namespace Sys2Proof.Machine

/-- `ST`, the status of the last decode (rule R14). Code 3 is reserved and has no constructor. -/
inductive Status where
  | decoded
  | tooShort
  | unsupportedOrTruncated
  deriving DecidableEq, Repr

/-- `L4K`, which transport was decoded (rule R15). -/
inductive Transport where
  | tcp
  | udp
  deriving DecidableEq, Repr

/-- The two per-frame decode failures, the block's only exceptions (rule R120). -/
inductive Failure where
  | tooShort
  | unsupportedOrTruncated
  deriving DecidableEq, Repr

/-- The report as an abstract value: the four shapes of rule R114. -/
inductive Report where
  | tooShort
  | unsupported (ip : IpFields)
  | tcp (ip : IpFields) (sport dport : BitVec 16)
  | udp (ip : IpFields) (sport dport : BitVec 16)
  deriving DecidableEq, Repr

/-- The report register group `RPT` (rules R12 to R16). `none` is the spec's own "holds no value" (R13). -/
structure Rpt where
  rv     : Bool
  st     : Option Status
  ipv    : Option Bool
  l4v    : Option Bool
  l4k    : Option Transport
  ver    : Option (BitVec 4)
  ihl    : Option (BitVec 4)
  totlen : Option (BitVec 16)
  proto  : Option Byte
  src    : Option Addr
  dst    : Option Addr
  sport  : Option (BitVec 16)
  dport  : Option (BitVec 16)
  deriving DecidableEq, Repr

/-- No report exists: `RV` is 0 and nothing holds a value (rules R16, R20). -/
def Rpt.empty : Rpt :=
  { rv := false, st := none, ipv := none, l4v := none, l4k := none, ver := none, ihl := none, totlen := none
    proto := none, src := none, dst := none, sport := none, dport := none }

/-- The written bytes of the frame buffer `FB`: addresses strictly rising, each below `MAXF` (rule R11). -/
abbrev Memory := List Host.Cell

/-- What an address that is not listed reads as: no value of its own. The block then meets the free value
`Config.fbResidue` (rule R43; assumption 2). -/
def Memory.unlisted : Option Byte := none

/-- The canonical form from an address on: the addresses listed rise strictly and each byte exists. -/
def Memory.wfFrom (low : Nat) : Memory → Bool
  | [] => true
  | (a, _) :: rest => decide (low ≤ a) && decide (a < Config.maxf) && Memory.wfFrom (a + 1) rest

/-- The canonical form of `FB`. No entry can equal what an unlisted address reads as, for that is no value. -/
def Memory.wf (m : Memory) : Bool := Memory.wfFrom 0 m

/-- The whole state. -/
structure State where
  /-- `FB`, the frame buffer (R11). -/
  fb      : Memory
  /-- `FLEN`, the frame length register (R11). -/
  flen    : BitVec 11
  /-- `RPT`, the report register group (R12 to R16). -/
  rpt     : Rpt
  /-- `TOFF`, which exists only within one decode (R17). -/
  toff    : Option (BitVec 6)
  /-- The result of `TCPFIT`, which exists only within one decode (R71; assumption 10). -/
  tcpFit  : Option Bool
  /-- The result of `UDPFIT`, which exists only within one decode (R72; assumption 10). -/
  udpFit  : Option Bool
  /-- The parameter of this instance of the block; no step changes it (R4, R18; assumption 3). -/
  build   : Config.Build
  /-- The model's own: the places a decode performed one micro-operation a step has yet to visit; empty when
  no decode is in progress (assumption 5). -/
  todo    : List Place
  /-- The model's own: what the environment does next, in order (assumption 4). -/
  inputs  : List Event
  /-- The model's own: the counter, advanced by every reset, the free value of unwritten bytes of `FB` is taken at
  (assumption 2). -/
  fbEpoch : Nat
  deriving DecidableEq, Repr

/-- Why the machine stops. Every one is SAFE: the model stops where the spec gives no value. -/
inductive Fault where
  /-- A micro-operation or the consumer reads a register of the report that holds no value (R13, R16; U6).
  Raised by `TOFFCALC`, `IHLCHK`, the dispatch and its arms run outside their place, and by the consumer's reads. -/
  | noValue (reg : Reg)
  /-- The consumer reads the report while `RV` is 0 (R16, R136; U6). -/
  | noReport
  /-- A micro-operation reads `TOFF` outside a decode, where it does not exist (R17). -/
  | noOffset
  /-- `MemRead` of bytes that are not part of the frame, where it is not defined (R6, R35). Raised by the
  extractions run outside their place; no decode raises it. -/
  | outsideFrame
  /-- The Frame Source writes a byte of `FB` that does not exist (R11). -/
  | outsideBuffer
  deriving DecidableEq, Repr

/-- Why a step is refused. Every one is SAFE: the spec says the event has no step. -/
inductive Refusal where
  /-- An instruction of the table without a meaning; this model has none. -/
  | notModelled (mnemonic : String)
  /-- A frame or a length beyond `MAXF` is presented or set (R42; U2). -/
  | frameTooLong
  /-- A frame is handed over while a decode is in progress (R154; U4). -/
  | decodeInProgress
  /-- The Frame Source changes the frame while it is being decoded (R153; U3). -/
  | frameChanged
  deriving DecidableEq, Repr

/-- The machine right after reset (rules R20, R150), in the default build (R4). `FB` lists nothing and `FLEN`
is 0: the spec leaves both unspecified (assumptions 1, 2). -/
def State.reset : State :=
  { fb := [], flen := 0, rpt := Rpt.empty, toff := none, tcpFit := none, udpFit := none
    build := { ihlMinCheck := false }, todo := [], inputs := [], fbEpoch := 0 }

end Sys2Proof.Machine
end

