-- ==== Sys2Proof/Machine/Ops.lean ====
section
/-! DEFINITION. The named operations on the frame buffer, the report and the course of a decode; the block's
one exception operation, `State.raise`. -/

namespace Sys2Proof.Machine

/-! ## The frame buffer -/

/-- The byte listed at an address, or what an unlisted address reads as. -/
def Memory.read : Memory → Nat → Option Byte
  | [], _ => Memory.unlisted
  | (a, b) :: rest, x => if x = a then some b else Memory.read rest x

/-- Write one byte, keeping the addresses in order. -/
def Memory.write : Memory → Nat → Byte → Memory
  | [], x, v => [(x, v)]
  | (a, b) :: rest, x, v =>
    if x < a then (x, v) :: (a, b) :: rest
    else if x = a then (a, v) :: rest
    else (a, b) :: Memory.write rest x v

/-- Write the bytes of a list at the addresses from `base` on, in order; every other byte stays as last written
(rules R11, R37 (b), R40). -/
def Memory.writeBytes (m : Memory) (base : Nat) : List Byte → Memory
  | [] => m
  | b :: bs => (Memory.writeBytes m (base + 1) bs).write base b

/-- The byte of `FB` at an offset; where nothing has been written, a free value (rule R43). -/
def State.frameByte (s : State) (offset : Nat) : Byte :=
  match s.fb.read offset with
  | some b => b
  | none => Config.fbResidue s.fbEpoch offset

/-! ## Updates of one part of the state -/

/-- Replace the report register group. -/
def State.setRpt (s : State) (r : Rpt) : State := { s with rpt := r }

/-- `TOFF <- t`. -/
def State.setToff (s : State) (t : BitVec 6) : State := { s with toff := some t }

/-- Hold the result of `TCPFIT`. -/
def State.setTcpFit (s : State) (r : Bool) : State := { s with tcpFit := some r }

/-- Hold the result of `UDPFIT`. -/
def State.setUdpFit (s : State) (r : Bool) : State := { s with udpFit := some r }

/-- Continue the decode at the given places (rules R70, R92, R62; assumption 11). -/
def State.continueAt (s : State) (ps : List Place) : State := { s with todo := ps }

/-- End the decode: `TOFF` and the results of the length tests exist no longer and nothing is left to do
(rules R17, R125). -/
def State.endDecode (s : State) : State := { s with toff := none, tcpFit := none, udpFit := none, todo := [] }

/-- What the Frame Source does at a hand-over: it writes the frame's bytes into `FB` from byte 0 on and its stated
length into `FLEN`. The rest of `FB` holds what was last written there, or a free value (rules R11, R37 (b), R38,
R40, R43; assumption 24). -/
def State.loadFrame (s : State) (frame : List Byte) (flen : Nat) : State :=
  { s with fb := s.fb.writeBytes 0 frame, flen := BitVec.ofNat 11 flen }

/-! ## The report -/

/-- The numeric code of `ST` (rule R14). -/
def Status.code : Status → BitVec 2
  | .decoded => 0
  | .tooShort => 1
  | .unsupportedOrTruncated => 2

/-- The status with a code; code 3 is reserved (rule R14; U7). -/
def Status.ofCode (c : BitVec 2) : Option Status :=
  if c = 0 then some .decoded
  else if c = 1 then some .tooShort
  else if c = 2 then some .unsupportedOrTruncated
  else none

/-- The bit of `L4K` (rule R15). -/
def Transport.bit : Transport → BitVec 1
  | .tcp => 0
  | .udp => 1

/-- The report registers with the six IP values held and `IPV` set as their group sets it (rule R86). -/
def Rpt.withIp (r : Rpt) (ip : IpFields) : Rpt :=
  { r with ver := some ip.ver, ihl := some ip.ihl, totlen := some ip.totlen, proto := some ip.proto
           src := some ip.src, dst := some ip.dst, ipv := some true }

/-- The register view of a report: the table of rule R114, with `RV` set (R16). -/
def Report.toRpt : Report → Rpt
  | .tooShort =>
    { Rpt.empty with rv := true, st := some .tooShort, ipv := some false, l4v := some false }
  | .unsupported ip =>
    { Rpt.empty.withIp ip with
      rv := true, st := some .unsupportedOrTruncated, ipv := some true, l4v := some false }
  | .tcp ip sport dport =>
    { Rpt.empty.withIp ip with
      rv := true, st := some .decoded, ipv := some true, l4v := some true, l4k := some .tcp
      sport := some sport, dport := some dport }
  | .udp ip sport dport =>
    { Rpt.empty.withIp ip with
      rv := true, st := some .decoded, ipv := some true, l4v := some true, l4k := some .udp
      sport := some sport, dport := some dport }

/-- A decode completes with a report: the whole of `RPT` is replaced (rule R16) and the decode ends. -/
def State.complete (s : State) (r : Report) : State := (s.setRpt r.toRpt).endDecode

/-! ## Raising a decode failure -/

/-- The registers and flags a failure class writes. `TooShort` carries no field (rule R121);
`UnsupportedOrTruncated` keeps the six IP registers and carries no port (rule R122). -/
def Rpt.failWith (r : Rpt) : Failure → Rpt
  | .tooShort =>
    { Rpt.empty with rv := true, st := some .tooShort, ipv := some false, l4v := some false }
  | .unsupportedOrTruncated =>
    { r with rv := true, st := some .unsupportedOrTruncated, ipv := some true, l4v := some false, l4k := none
             sport := none, dport := none }

/-- TAKING AN EXCEPTION (rule R125): write the status and flags of the class, leave the registers the class does
not carry at `none`, set `RV`, end the decode. Nothing is saved, no mode changes, control goes nowhere. There is
no return operation (rule R126). -/
def State.raise (s : State) (f : Failure) : State := (s.setRpt (s.rpt.failWith f)).endDecode

/-! ## What the consumer observes -/

/-- `read_report`: `RPT` when `RV` is 1 (rule R136). -/
def State.readReport (s : State) : Option Rpt := if s.rpt.rv then some s.rpt else none

/-- A register of the report as a number, flags and status by their codes (rules R12, R14, R15, R21). -/
def Rpt.value (r : Rpt) : Reg → Option Nat
  | .st => r.st.map fun x => x.code.toNat
  | .ipv => r.ipv.map Bool.toNat
  | .l4v => r.l4v.map Bool.toNat
  | .l4k => r.l4k.map fun x => x.bit.toNat
  | .ver => r.ver.map BitVec.toNat
  | .ihl => r.ihl.map BitVec.toNat
  | .totlen => r.totlen.map BitVec.toNat
  | .proto => r.proto.map BitVec.toNat
  | .src => r.src.map fun x => x.toWord.toNat
  | .dst => r.dst.map fun x => x.toWord.toNat
  | .sport => r.sport.map BitVec.toNat
  | .dport => r.dport.map BitVec.toNat

/-- A consumer's read of one register: nothing holds a value while `RV` is 0 (rules R13, R16). -/
def State.readReg (s : State) (reg : Reg) : Option Nat := if s.rpt.rv then s.rpt.value reg else none

end Sys2Proof.Machine
end

