-- ==== Sys2Proof/Machine/Operands.lean ====
section
/-! DEFINITION. How a micro-operation gets its operands: bytes of the frame at a fixed offset or at `TOFF` plus a
constant (rules R30, R33, R102), registers of the report, `TOFF`. -/

namespace Sys2Proof.Machine

/-- `MemRead(offset, n)` is defined: the `n` bytes are part of the frame (rules R6, R35). -/
def State.inFrame (s : State) (offset n : Nat) : Bool := decide (offset + n ≤ s.flen.toNat)

/-- `MemRead(offset, 1)[0]` (rules R6, R33). -/
def State.read1 (s : State) (offset : Nat) : Except Fault Byte :=
  if s.inFrame offset 1 then .ok (s.frameByte offset) else .error .outsideFrame

/-- `be16(offset)`: two bytes, the one at the lower offset the more significant (rules R6, R31). -/
def State.readBe16 (s : State) (offset : Nat) : Except Fault (BitVec 16) :=
  if s.inFrame offset 2 then .ok (be16 (s.frameByte offset) (s.frameByte (offset + 1))) else .error .outsideFrame

/-- `MemRead(offset, 4)`: four bytes verbatim (rules R6, R31). -/
def State.read4 (s : State) (offset : Nat) : Except Fault Addr :=
  if s.inFrame offset 4 then
    .ok ⟨s.frameByte offset, s.frameByte (offset + 1), s.frameByte (offset + 2), s.frameByte (offset + 3)⟩
  else .error .outsideFrame

/-- Read of `RPT.IHL` by the block (rule R13). -/
def State.needIhl (s : State) : Except Fault (BitVec 4) :=
  match s.rpt.ihl with
  | some v => .ok v
  | none => .error (.noValue .ihl)

/-- Read of `RPT.PROTO` by the block (rule R13). -/
def State.needProto (s : State) : Except Fault Byte :=
  match s.rpt.proto with
  | some v => .ok v
  | none => .error (.noValue .proto)

/-- Read of `TOFF` (rule R17). -/
def State.needToff (s : State) : Except Fault (BitVec 6) :=
  match s.toff with
  | some v => .ok v
  | none => .error .noOffset

/-- The outcome of a micro-operation that needs an operand: with it, the next state; without, the fault. -/
def withOperand {α : Type} (x : Except Fault α) (k : α → Host.Outcome State Fault Refusal) :
    Host.Outcome State Fault Refusal :=
  match x with
  | .ok v => k v
  | .error f => .fault f

end Sys2Proof.Machine
end

