-- ==== Sys2Proof/Machine/Flags.lean ====
section
/-! DEFINITION. The tests a decode makes, the flags the extractions set as groups, and the status and flags a
successful dispatch writes (rules R15, R70 to R73, R86, R91, R92, R102). Every comparison is over the natural numbers: nothing wraps (R73). -/

namespace Sys2Proof.Machine

/-- `FLEN < 20` (rule R70). -/
def tooShortLength (flen : Nat) : Bool := decide (flen < Config.iphMin)

/-- `FLEN >= TOFF + 20` (rules R71, R73). -/
def tcpFits (flen toff : Nat) : Bool := decide (toff + Config.tcpMin ≤ flen)

/-- `FLEN >= TOFF + 8` (rules R72, R73). -/
def udpFits (flen toff : Nat) : Bool := decide (toff + Config.udpMin ≤ flen)

/-- `IHL < 5` (rule R92). -/
def ihlBelowMin (ihl : BitVec 4) : Bool := decide (ihl.toNat < Config.ihlMin)

/-- All six IP registers hold values (rules R13, R15). -/
def Rpt.holdsIp (r : Rpt) : Bool :=
  r.ver.isSome && r.ihl.isSome && r.totlen.isSome && r.proto.isSome && r.src.isSome && r.dst.isSome

/-- Both port registers hold values (rules R13, R15). -/
def Rpt.holdsPorts (r : Rpt) : Bool := r.sport.isSome && r.dport.isSome

/-- The six IP extractions "set `IPV <- 1` as a group" (rule R86): whichever completes the group sets it
(assumption 23). -/
def Rpt.groupIpv (r : Rpt) : Rpt := { r with ipv := if r.holdsIp then some true else r.ipv }

/-- The two port extractions "together set `L4V <- 1`" (rule R102): whichever completes the pair sets it
(assumption 23). -/
def Rpt.groupL4v (r : Rpt) : Rpt := { r with l4v := if r.holdsPorts then some true else r.l4v }

/-- The status and flags of a taken TCP or UDP arm: `ST <- DECODED; IPV <- 1; L4V <- 1; L4K` (rule R91), and `RV`
(rules R16, R110). -/
def Rpt.decodedAs (r : Rpt) (t : Transport) : Rpt :=
  { r with rv := true, st := some .decoded, ipv := some true, l4v := some true, l4k := some t }

end Sys2Proof.Machine
end

