-- ==== Sys2Proof/Machine/DecodeTop.lean ====
section
/-! DEFINITION. The whole decode (rules R110 to R114): the total function from a frame to a report, and the
micro-operation `DECODE` that performs it in one atomic step. -/

namespace Sys2Proof.Machine

/-- Steps 3 and 4 of `DECODE` once the IP fields are known (rule R110): the first arm that matches and fits. -/
def dispatchReport (F : Nat → Byte) (flen : Nat) (ip : IpFields) : Report :=
  let toff := (transportOffset ip.ihl).toNat
  if ip.proto == Config.protoTcp && tcpFits flen toff then
    .tcp ip (sourcePortAt F toff) (destPortAt F toff)
  else if ip.proto == Config.protoUdp && udpFits flen toff then
    .udp ip (sourcePortAt F toff) (destPortAt F toff)
  else .unsupported ip

/-- `DECODE(F, FLEN)` (rule R110): `F` the bytes of the frame, `chk` the parameter `IHL_MIN_CHECK`. Defined for a
frame of any length; it does not use `MAXF` (rule R42). -/
def decodeFrame (chk : Bool) (F : Nat → Byte) (flen : Nat) : Report :=
  if tooShortLength flen then .tooShort
  else if chk && ihlBelowMin (ipFieldsOf F).ihl then .unsupported (ipFieldsOf F)
  else dispatchReport F flen (ipFieldsOf F)

/-- `DECODE` (rules R110, R136): `RPT <- DECODE(F, FLEN)`, atomically. -/
def execDecode (s : State) : Host.Outcome State Fault Refusal :=
  .next (s.complete (decodeFrame s.build.ihlMinCheck s.frameByte s.flen.toNat))

end Sys2Proof.Machine
end

