-- ==== Sys2Proof/Machine/IpHeader.lean ====
section
/-! DEFINITION. The IP header decoder: the six extractions of step 2 (rules R80 to R86). None writes a flag of
its own, as a group they set `IPV`; none tests anything; each asks only that its bytes are part of the frame. -/

namespace Sys2Proof.Machine

/-- `XVER` (rule R80). -/
def execXver (s : State) : Host.Outcome State Fault Refusal :=
  withOperand (s.read1 0) fun b => .next (s.setRpt (Rpt.groupIpv { s.rpt with ver := some (hiNibble b) }))

/-- `XIHL` (rule R81). -/
def execXihl (s : State) : Host.Outcome State Fault Refusal :=
  withOperand (s.read1 0) fun b => .next (s.setRpt (Rpt.groupIpv { s.rpt with ihl := some (loNibble b) }))

/-- `XTOTLEN` (rule R82). -/
def execXtotlen (s : State) : Host.Outcome State Fault Refusal :=
  withOperand (s.readBe16 2) fun v => .next (s.setRpt (Rpt.groupIpv { s.rpt with totlen := some v }))

/-- `XPROTO` (rule R83). -/
def execXproto (s : State) : Host.Outcome State Fault Refusal :=
  withOperand (s.read1 9) fun b => .next (s.setRpt (Rpt.groupIpv { s.rpt with proto := some b }))

/-- `XSRC` (rule R84). -/
def execXsrc (s : State) : Host.Outcome State Fault Refusal :=
  withOperand (s.read4 12) fun a => .next (s.setRpt (Rpt.groupIpv { s.rpt with src := some a }))

/-- `XDST` (rule R85). -/
def execXdst (s : State) : Host.Outcome State Fault Refusal :=
  withOperand (s.read4 16) fun a => .next (s.setRpt (Rpt.groupIpv { s.rpt with dst := some a }))

end Sys2Proof.Machine
end

