-- ==== Sys2Proof/Machine/LengthValidator.lean ====
section
/-! DEFINITION. The frame-length validator: `LENGUARD`, `TCPFIT`, `UDPFIT` (rules R70 to R74). It reads no byte of
the frame. -/

namespace Sys2Proof.Machine

/-- `LENGUARD` (rule R70): a frame of fewer than 20 bytes raises `TooShort`; any other goes on with step 2. -/
def execLenguard (s : State) : Host.Outcome State Fault Refusal :=
  if tooShortLength s.flen.toNat then .next (s.raise .tooShort)
  else .next (s.continueAt (placesAfterGuard s.build))

/-- `TCPFIT` (rule R71). -/
def execTcpfit (s : State) : Host.Outcome State Fault Refusal :=
  withOperand s.needToff fun t => .next (s.setTcpFit (tcpFits s.flen.toNat t.toNat))

/-- `UDPFIT` (rule R72). -/
def execUdpfit (s : State) : Host.Outcome State Fault Refusal :=
  withOperand s.needToff fun t => .next (s.setUdpFit (udpFits s.flen.toNat t.toNat))

end Sys2Proof.Machine
end

