-- ==== Sys2Proof/Machine/TransportPorts.lean ====
section
/-! DEFINITION. The TCP/UDP port extractor: `XSPORT`, `XDPORT` (rules R100 to R103). The same two operations serve
both transports and together set `L4V`; the base `TOFF` is not changed. -/

namespace Sys2Proof.Machine

/-- `XSPORT` (rule R100). -/
def execXsport (s : State) : Host.Outcome State Fault Refusal :=
  withOperand s.needToff fun t =>
    withOperand (s.readBe16 t.toNat) fun v => .next (s.setRpt (Rpt.groupL4v { s.rpt with sport := some v }))

/-- `XDPORT` (rule R101). -/
def execXdport (s : State) : Host.Outcome State Fault Refusal :=
  withOperand s.needToff fun t =>
    withOperand (s.readBe16 (t.toNat + 2)) fun v => .next (s.setRpt (Rpt.groupL4v { s.rpt with dport := some v }))

end Sys2Proof.Machine
end

