-- ==== Sys2Proof/Machine/ProtocolDispatch.lean ====
section
/-! DEFINITION. Transport offset and protocol dispatch: `TOFFCALC`, `IHLCHK`, the three arms of `DISPATCH` (rules
R90 to R93). -/

namespace Sys2Proof.Machine

/-- `TOFFCALC` (rule R90). -/
def execToffcalc (s : State) : Host.Outcome State Fault Refusal :=
  withOperand s.needIhl fun ihl => .next (s.setToff (transportOffset ihl))

/-- `IHLCHK` (rule R92): without `IHL_MIN_CHECK` it has no effect. -/
def execIhlchk (s : State) : Host.Outcome State Fault Refusal :=
  if s.build.ihlMinCheck then
    withOperand s.needIhl fun ihl =>
      if ihlBelowMin ihl then .next (s.raise .unsupportedOrTruncated) else .next (s.continueAt [.tcpRow])
  else .next s

/-- Run one outcome after another: the second from the first's next state. -/
def andThen (o : Host.Outcome State Fault Refusal) (k : State → Host.Outcome State Fault Refusal) :
    Host.Outcome State Fault Refusal :=
  match o with
  | .next s => k s
  | .fault f => .fault f
  | .refused r => .refused r

/-- What a taken arm does: `XSPORT; XDPORT`, the status and flags, and the decode ends (rule R91). -/
def takeArm (t : Transport) (s : State) : Host.Outcome State Fault Refusal :=
  andThen (execXsport s) fun s1 =>
    andThen (execXdport s1) fun s2 => .next (s2.setRpt (s2.rpt.decodedAs t)).endDecode

/-- `DISPATCH.TCP` (rules R54, R91): evaluates `TCPFIT`; taken when `PROTO` is 6 and it holds, else it falls
through to the next row. -/
def execDispatchTcp (s : State) : Host.Outcome State Fault Refusal :=
  withOperand s.needProto fun p =>
    andThen (execTcpfit s) fun s1 =>
      if p == Config.protoTcp && s1.tcpFit == some true then takeArm .tcp s1 else .next (s1.continueAt [.udpRow])

/-- `DISPATCH.UDP` (rules R54, R91): evaluates `UDPFIT`; taken when `PROTO` is 17 and it holds, else it falls
through to the next row. -/
def execDispatchUdp (s : State) : Host.Outcome State Fault Refusal :=
  withOperand s.needProto fun p =>
    andThen (execUdpfit s) fun s1 =>
      if p == Config.protoUdp && s1.udpFit == some true then takeArm .udp s1 else .next (s1.continueAt [.elseRow])

/-- `DISPATCH.ELSE` (rules R54, R91): the failure arm. -/
def execDispatchElse (s : State) : Host.Outcome State Fault Refusal :=
  .next (s.raise .unsupportedOrTruncated)

end Sys2Proof.Machine
end

