-- ==== Sys2Proof/Machine/Dispatch.lean ====
section
/-! DEFINITION. One arm per row of spec/opcode_table.json. -/

namespace Sys2Proof.Machine

def exec (i : Instr) (s : State) : Host.Outcome State Fault Refusal :=
  match i with
  | .decode => Sys2Proof.Machine.execDecode s
  | .lenguard => Sys2Proof.Machine.execLenguard s
  | .xver => Sys2Proof.Machine.execXver s
  | .xihl => Sys2Proof.Machine.execXihl s
  | .xtotlen => Sys2Proof.Machine.execXtotlen s
  | .xproto => Sys2Proof.Machine.execXproto s
  | .xsrc => Sys2Proof.Machine.execXsrc s
  | .xdst => Sys2Proof.Machine.execXdst s
  | .toffcalc => Sys2Proof.Machine.execToffcalc s
  | .ihlchk => Sys2Proof.Machine.execIhlchk s
  | .tcpfit => Sys2Proof.Machine.execTcpfit s
  | .udpfit => Sys2Proof.Machine.execUdpfit s
  | .dispatchTcp => Sys2Proof.Machine.execDispatchTcp s
  | .dispatchUdp => Sys2Proof.Machine.execDispatchUdp s
  | .dispatchElse => Sys2Proof.Machine.execDispatchElse s
  | .xsport => Sys2Proof.Machine.execXsport s
  | .xdport => Sys2Proof.Machine.execXdport s

end Sys2Proof.Machine
end

