-- ==== Sys2Proof/Machine/Environment.lean ====
section
/-! DEFINITION. The events of the agents around the block (rules R136, R150 to R155), the selection of the next
micro-operation of a decode in progress (R62), and how a word of the table is put where the next step takes it. -/

namespace Sys2Proof.Machine

/-! ## The block's own turn -/

/-- The micro-operation at a place of a decode in progress: the dispatch is selected by `RPT.PROTO` (rule R62). -/
def fetchAt (p : Place) (s : State) : Except Fault Instr :=
  match decodeAt p s.rpt.proto with
  | .ok i => .ok i
  | .error _ => .error (.noValue .proto)

/-- The block moves: it performs the micro-operation at the next place; with no decode in progress it holds the last
report (rules R17, R135; D18). -/
def blockMoves (s : State) : Host.Outcome State Fault Refusal :=
  match s.todo with
  | [] => .next s
  | p :: rest => withOperand (fetchAt p s) fun i => exec i (s.continueAt rest)

/-! ## Events -/

/-- `reset` (rules R20, R150, R151): the reset state; a decode in progress is abandoned. The build is the instance's
own, what the environment does later is not the block's, and `FB` is unspecified again. -/
def resetEvent (s : State) : State :=
  { State.reset with build := s.build, inputs := s.inputs, fbEpoch := s.fbEpoch + 1 }

/-- A hand-over is allowed when no decode is in progress and the frame fits (rules R37 (c), R42, R154). -/
def handOver (frame : List Byte) (flen : Nat) (s : State) (k : State → Host.Outcome State Fault Refusal) :
    Host.Outcome State Fault Refusal :=
  if s.todo ≠ [] then .refused .decodeInProgress
  else if framePresentable frame flen then k (s.loadFrame frame flen)
  else .refused .frameTooLong

/-- `present(F, FLEN)` (rule R136): the hand-over and the whole decode in one step. -/
def presentEvent (frame : List Byte) (flen : Nat) (s : State) : Host.Outcome State Fault Refusal :=
  handOver frame flen s (exec .decode)

/-- The decode begins: the earlier report's life ends (rules R16, R154) and the places of a decode lie ahead. -/
def State.beginDecode (s : State) : State := (s.setRpt Rpt.empty).endDecode.continueAt (decodePlaces s.build)

/-- The hand-over of a decode that is performed one micro-operation a step (assumption 5). -/
def startEvent (frame : List Byte) (flen : Nat) (s : State) : Host.Outcome State Fault Refusal :=
  handOver frame flen s fun s1 => .next s1.beginDecode

/-- The Frame Source writes one byte of `FB` outside a hand-over. It must not be a byte of a frame being decoded
(rules R22, R153). -/
def writeEvent (offset : Nat) (byte : Byte) (s : State) : Host.Outcome State Fault Refusal :=
  if offset < Config.maxf then
    if s.todo ≠ [] ∧ offset < s.flen.toNat then .refused .frameChanged
    else .next { s with fb := s.fb.write offset byte }
  else .fault .outsideBuffer

/-- The Frame Source writes `FLEN` outside a hand-over. It must not do so while a frame is being decoded (rules R11,
R22, R153). -/
def setFlenEvent (flen : Nat) (s : State) : Host.Outcome State Fault Refusal :=
  if s.todo ≠ [] then .refused .frameChanged
  else if flen ≤ Config.maxf then .next { s with flen := BitVec.ofNat 11 flen }
  else .refused .frameTooLong

/-- The consumer reads the report (rule R136): no effect; there must be one (R16; U6). -/
def readReportEvent (s : State) : Host.Outcome State Fault Refusal :=
  match s.readReport with
  | some _ => .next s
  | none => .fault .noReport

/-- The consumer reads one register (rules R13, R16): no effect; it must hold a value (U6). -/
def readRegEvent (reg : Reg) (s : State) : Host.Outcome State Fault Refusal :=
  match s.readReg reg with
  | some _ => .next s
  | none => .fault (.noValue reg)

/-- One event, from a state whose list of inputs no longer holds it. -/
def handleEvent (e : Event) (s : State) : Host.Outcome State Fault Refusal :=
  match e with
  | .reset => .next (resetEvent s)
  | .present frame flen => presentEvent frame flen s
  | .start frame flen => startEvent frame flen s
  | .tick => blockMoves s
  | .write offset byte => writeEvent offset byte s
  | .setFlen flen => setFlenEvent flen s
  | .readReport => readReportEvent s
  | .readReg reg => readRegEvent reg s

/-- Take an event off the list of inputs. -/
def State.setInputs (s : State) (es : List Event) : State := { s with inputs := es }

/-- Whose move is next: the environment's while it has inputs, then the block's. -/
def nextMove (s : State) : Host.Outcome State Fault Refusal :=
  match s.inputs with
  | [] => blockMoves s
  | e :: es => handleEvent e (s.setInputs es)

/-! ## Placing a word of the table (assumption 6) -/

/-- A 20-byte frame of zeros with the protocol byte given, as a decode has it before its dispatch (rule R110, after
step 2 and `TOFFCALC`): the dispatch is next. -/
def State.placeDispatch (s : State) (proto : Byte) : State :=
  let frame := (List.replicate 20 (0 : Byte)).set 9 proto
  let s1 := (s.loadFrame frame 20).beginDecode
  { s1 with rpt := s1.rpt.withIp (ipFieldsOf s1.frameByte), toff := some 0, todo := [.tcpRow], inputs := [] }

/-- A 28-byte frame whose bytes from `TOFF` = 20 on begin with the four bytes given: `XSPORT` is next. -/
def State.placePorts (s : State) (bytes : List Byte) : State :=
  { s.loadFrame (List.replicate 20 (0 : Byte) ++ bytes ++ List.replicate 4 (0 : Byte)) 28 with
    toff := some 20, todo := [.sourcePort], inputs := [] }

/-- A frame of the bytes given is presented next. -/
def State.placeFrame (s : State) (bytes : List Byte) : State :=
  { s with todo := [], inputs := [.present bytes bytes.length] }

/-- Put the bytes of a word where the next step takes its micro-operation from: one byte is the selector of the
dispatch, four bytes are format `L4P`, any other number is a frame. -/
def State.placeWord (s : State) (bytes : List Byte) : State :=
  match bytes with
  | [proto] => s.placeDispatch proto
  | [_, _, _, _] => s.placePorts bytes
  | _ => s.placeFrame bytes

end Sys2Proof.Machine
end

