-- ==== Sys2Proof/Machine/Step.lean ====
section
/-! DEFINITION. One step of the machine, and where the next step finds a given word. -/

namespace Sys2Proof.Machine

/-- One step: the next move of the environment or the block. -/
def step (s : State) : Host.Outcome State Fault Refusal := nextMove s

/-- `s` with the word placed where the next step takes its micro-operation from (assumption 6). -/
def State.withFetchWord (s : State) (nbits w : Nat) : State := s.placeWord (wordBytes (nbits / 8) w)

end Sys2Proof.Machine
end

