-- ==== Sys2Proof/Machine/Notation.lean ====
section
/-! DEFINITION. The text of frames and reports (rule R60) and the dotted text of an address (rule R21): a
presentation of values for a reader, no behaviour of the block. -/

namespace Sys2Proof.Machine

/-- Decimal digits, most significant first; `fuel` bounds their number. -/
def decimalDigits : Nat → Nat → List Char
  | 0, _ => []
  | fuel + 1, n =>
    (if n < 10 then [] else decimalDigits fuel (n / 10)) ++ [Char.ofNat (48 + n % 10)]

/-- A number of at most ten digits in decimal. -/
def decimalText (n : Nat) : List Char := decimalDigits 10 n

/-- One upper-case hexadecimal digit. -/
def hexDigit (n : Nat) : Char := if n < 10 then Char.ofNat (48 + n) else Char.ofNat (55 + n)

/-- A byte as two upper-case hexadecimal digits (rule R60). -/
def hexByte (b : Byte) : List Char := [hexDigit (hiNibble b).toNat, hexDigit (loNibble b).toNat]

/-- `x` between the texts of the list. -/
def joinText (x : List Char) : List (List Char) → List Char
  | [] => []
  | [t] => t
  | t :: ts => t ++ x ++ joinText x ts

/-- The dotted text of an address, the first byte first (rule R21). -/
def addrText (a : Addr) : List Char := joinText ['.'] (a.bytes.map fun b => decimalText b.toNat)

/-- A frame: its length, and its bytes in hexadecimal (rule R60). -/
def frameText (frame : List Byte) : List Char :=
  ['l', 'e', 'n', '='] ++ decimalText frame.length ++ [':'] ++ frame.flatMap fun b => ' ' :: hexByte b

/-- The name of a status (rule R14). -/
def statusText : Status → String
  | .decoded => "DECODED"
  | .tooShort => "TOO_SHORT"
  | .unsupportedOrTruncated => "UNSUPPORTED_OR_TRUNCATED"

/-- The name of a transport (rule R60). -/
def transportText : Transport → String
  | .tcp => "TCP"
  | .udp => "UDP"

/-- `NAME=value`, or nothing when the register holds no value (rule R60). -/
def fieldText (name : String) (value : Option (List Char)) : List (List Char) :=
  match value with
  | some v => [name.toList ++ ['='] ++ v]
  | none => []

/-- A number register's text. -/
def numberText {w : Nat} (v : Option (BitVec w)) : Option (List Char) := v.map fun x => decimalText x.toNat

/-- A report: `ST` and every register that holds a value (rule R60). -/
def rptText (r : Rpt) : List Char :=
  joinText [' ']
    (fieldText "ST" (r.st.map fun x => (statusText x).toList) ++ fieldText "VER" (numberText r.ver)
      ++ fieldText "IHL" (numberText r.ihl) ++ fieldText "TOTLEN" (numberText r.totlen)
      ++ fieldText "PROTO" (numberText r.proto) ++ fieldText "SRC" (r.src.map addrText)
      ++ fieldText "DST" (r.dst.map addrText) ++ fieldText "L4K" (r.l4k.map fun x => (transportText x).toList)
      ++ fieldText "SPORT" (numberText r.sport) ++ fieldText "DPORT" (numberText r.dport))

end Sys2Proof.Machine
end

