-- ==== Sys2Proof/Safety.lean ====
section
/-! DEFINITION. The terms the claims are made in: which reports are whole, which states a decode passes through, the
invariant, the bytes a decode reads, runs of several steps. -/

namespace Sys2Proof.Machine

/-- The transport of a decoded report is the one its protocol identifier names (rule R15). -/
def Report.Consistent : Report → Prop
  | .tooShort => True
  | .unsupported _ => True
  | .tcp ip _ _ => ip.proto = 6
  | .udp ip _ _ => ip.proto = 17

/-- `RPT` holds no report, or one whole report of rule R114. -/
def Rpt.Whole (r : Rpt) : Prop := r = Rpt.empty ∨ ∃ rep : Report, rep.Consistent ∧ r = rep.toRpt

/-- No decode is in progress: nothing is left to do and nothing that lives only inside a decode exists (R10, R17). -/
def State.Idle (s : State) : Prop := s.todo = [] ∧ s.toff = none ∧ s.tcpFit = none ∧ s.udpFit = none

/-- `RPT` after the first `done` places of a decode (rules R86, R110): each place of step 2 has left its value, and the
last of them has set `IPV` for the group. -/
def partialRpt (ip : IpFields) (done : Nat) : Rpt :=
  { Rpt.empty with
    ver := if 2 ≤ done then some ip.ver else none
    ihl := if 3 ≤ done then some ip.ihl else none
    totlen := if 4 ≤ done then some ip.totlen else none
    proto := if 5 ≤ done then some ip.proto else none
    src := if 6 ≤ done then some ip.src else none
    dst := if 7 ≤ done then some ip.dst else none
    ipv := if 7 ≤ done then some true else none }

/-- A decode has passed its first `done` places and goes on in the fixed order (rule R17). -/
def State.AtPlace (s : State) (done : Nat) : Prop :=
  done < (decodePlaces s.build).length ∧ s.todo = (decodePlaces s.build).drop done
    ∧ (1 ≤ done → 20 ≤ s.flen.toNat) ∧ s.rpt = partialRpt (ipFieldsOf s.frameByte) done
    ∧ s.toff = (if 8 ≤ done then some (transportOffset (ipFieldsOf s.frameByte).ihl) else none)
    ∧ s.tcpFit = none ∧ s.udpFit = none

/-- A row of the dispatch has fallen through and a later row is next (rules R54, R91). -/
def State.AtLaterRow (s : State) : Prop :=
  (s.todo = [.udpRow] ∨ s.todo = [.elseRow]) ∧ 20 ≤ s.flen.toNat
    ∧ s.rpt = partialRpt (ipFieldsOf s.frameByte) 8
    ∧ s.toff = some (transportOffset (ipFieldsOf s.frameByte).ihl)

/-- A decode performed one micro-operation a step is in progress. -/
def State.InDecode (s : State) : Prop := (∃ done, s.AtPlace done) ∨ s.AtLaterRow

/-- The invariant: `FB` is in canonical form, `FLEN` is a legal length, and either no decode is in progress and the
report is whole, or a decode is at one of its places (rules R11, R16, R17, R42). -/
structure State.Inv (s : State) : Prop where
  fbWf     : s.fb.wf = true
  flenLe   : s.flen.toNat ≤ 1500
  phase    : (s.Idle ∧ s.rpt.Whole) ∨ s.InDecode

/-- The offsets of the two ports a report holds: `TOFF` to `TOFF + 3` (rules R34, R52). -/
def Report.portOffsets : Report → List Nat
  | .tooShort => []
  | .unsupported _ => []
  | .tcp ip _ _ => (List.range 4).map fun i => ip.ihl.toNat * 4 + i
  | .udp ip _ _ => (List.range 4).map fun i => ip.ihl.toNat * 4 + i

/-- The offsets of the frame a decode reads (rules R34, R111, R158). -/
def bytesRead (chk : Bool) (F : Nat → Byte) (flen : Nat) : List Nat :=
  if flen < 20 then []
  else [0, 2, 3, 9, 12, 13, 14, 15, 16, 17, 18, 19] ++ (decodeFrame chk F flen).portOffsets

/-- `n` steps, stopping at the first fault or refusal. -/
def runSteps : Nat → State → Host.Outcome State Fault Refusal
  | 0, s => .next s
  | n + 1, s =>
    match step s with
    | .next s' => runSteps n s'
    | .fault f => .fault f
    | .refused r => .refused r

/-- Perform micro-operations one after another, stopping at the first fault or refusal. -/
def execAll : List Instr → State → Host.Outcome State Fault Refusal
  | [], s => .next s
  | i :: is, s =>
    match exec i s with
    | .next s' => execAll is s'
    | .fault f => .fault f
    | .refused r => .refused r

/-- The six extractions of step 2 (rule R86). -/
def step2Instrs : List Instr := [.xver, .xihl, .xtotlen, .xproto, .xsrc, .xdst]

/-- The register a data extraction writes (rules R12, R80 to R85, R100, R101); the other operations are no data
extractions. -/
def destReg : Instr → Option Reg
  | .xver => some .ver
  | .xihl => some .ihl
  | .xtotlen => some .totlen
  | .xproto => some .proto
  | .xsrc => some .src
  | .xdst => some .dst
  | .xsport => some .sport
  | .xdport => some .dport
  | .decode | .lenguard | .toffcalc | .ihlchk | .tcpfit | .udpfit | .dispatchTcp | .dispatchUdp | .dispatchElse =>
    none

/-- A row of the table of rule R114, field by field: the status, the flags, and which registers hold values. -/
def rptRow (st : Status) (ipv l4v : Bool) (l4k : Option Transport) (ip : Option IpFields)
    (ports : Option (BitVec 16 × BitVec 16)) : Rpt :=
  { rv := true, st := some st, ipv := some ipv, l4v := some l4v, l4k := l4k
    ver := ip.map IpFields.ver, ihl := ip.map IpFields.ihl, totlen := ip.map IpFields.totlen
    proto := ip.map IpFields.proto, src := ip.map IpFields.src, dst := ip.map IpFields.dst
    sport := ports.map Prod.fst, dport := ports.map Prod.snd }

/-- The state with a report in it and no decode in progress; nothing else differs. -/
def State.finishedWith (s : State) (r : Rpt) : State :=
  { s with rpt := r, toff := none, tcpFit := none, udpFit := none, todo := [] }

/-- The six fields are those of the frame with bytes `F`, as numbers and verbatim bytes (rules R21, R53, R80 to
R85). -/
def IpReadFrom (ip : IpFields) (F : Nat → Byte) : Prop :=
  ip.ver.toNat = (F 0).toNat / 16 ∧ ip.ihl.toNat = (F 0).toNat % 16
    ∧ ip.totlen.toNat = (F 2).toNat * 256 + (F 3).toNat ∧ ip.proto = F 9
    ∧ ip.src = ⟨F 12, F 13, F 14, F 15⟩ ∧ ip.dst = ⟨F 16, F 17, F 18, F 19⟩

/-- The two ports are the big-endian numbers at offset `t` of the frame (rules R53, R100, R101). -/
def PortsReadFrom (F : Nat → Byte) (t : Nat) (sport dport : BitVec 16) : Prop :=
  sport.toNat = (F t).toNat * 256 + (F (t + 1)).toNat
    ∧ dport.toNat = (F (t + 2)).toNat * 256 + (F (t + 3)).toNat

/-- The byte of a frame given as a list; outside the list the offset is not part of the frame and the value stands
for nothing (rule R35 says no decode reads it). -/
def listByte (frame : List Byte) (offset : Nat) : Byte := frame.getD offset 0

end Sys2Proof.Machine
end

