-- ==== Sys2Proof/Certificates/Slice0/Obligations.lean ====
section
/-! DEFINITION. The statements about the machine. `F` in a docstring is the frame as the block reads it
(`State.frameByte`), `FLEN` its length register. -/

open Sys2Proof Sys2Proof.Machine

/-! ## Reset -/

/-- R20: in the state after reset, and after the reset event from every state, `RV` is 0, no status, flag or data register
holds a value and `TOFF` does not exist. -/
def Obligations.ResetLeavesNoReport : Prop :=
  (∀ s : State, s = State.reset ∨ (∃ s0 es, s0.inputs = Event.reset :: es ∧ step s0 = .next s) →
    s.rpt = { rv := false, st := none, ipv := none, l4v := none, l4k := none, ver := none, ihl := none
              totlen := none, proto := none, src := none, dst := none, sport := none, dport := none }
    ∧ s.toff = none)

/-- R150, R151: the reset event is always taken and abandons a decode in progress. The model's own choices, in the same
statement: the instance stays the one it is, what the environment does later stays to be done, the fields of assumptions
5 and 10 are cleared, and `FB` lists nothing afterwards, the model's form of "unspecified" (assumptions 2, 5, 10, 17). -/
def Obligations.ResetEventAlwaysTaken : Prop :=
  ∀ (s : State) (es : List Event), s.inputs = .reset :: es →
    ∃ t, step s = .next t ∧ t.rpt.rv = false ∧ t.todo = [] ∧ t.tcpFit = none ∧ t.udpFit = none ∧ t.build = s.build
      ∧ t.inputs = es ∧ ∀ a, t.fb.read a = none

/-! ## The invariant -/

/-- The invariant holds after reset. The spec leaves `FB` and `FLEN` unspecified there: the clauses about them rest on the
model's choices, `FLEN` 0 (assumption 1), nothing listed in `FB` (assumption 2) and no place of a decode left
(assumption 5). -/
def Obligations.ResetMeetsInvariant : Prop := State.reset.Inv

/-- R10, R11, R16, R17: every step from every state that meets the invariant gives a state that meets it. -/
def Obligations.StepKeepsInvariant : Prop :=
  ∀ s t : State, s.Inv → step s = .next t → t.Inv

/-- R112, R35: with nothing from outside, the block moves from every state of the invariant: it never faults, never
reads outside the frame, never refuses. -/
def Obligations.BlockNeverStopsByItself : Prop :=
  ∀ s : State, s.Inv → s.inputs = [] → ∃ t, step s = .next t

/-- R93: a decode in progress ends within eleven steps, with a report. -/
def Obligations.DecodeEndsWithinElevenSteps : Prop :=
  ∀ s : State, s.InDecode → s.inputs = [] →
    ∃ k t, k ≤ 11 ∧ runSteps k s = .next t ∧ t.Idle ∧ t.rpt.rv = true

/-- R13, R14, R15, R16: in every state of the invariant with no decode in progress, either `RV` is 0 and nothing holds a
value, or the flags, the status and which registers hold values go together as rules R14 and R15 say; `L4K` is TCP
exactly when `PROTO` is 6 and UDP exactly when it is 17. -/
def Obligations.FlagsAndRegistersFollowStatus : Prop :=
  ∀ s : State, s.Inv → s.todo = [] →
    (s.rpt.rv = false ∧ s.rpt = Rpt.empty) ∨
    (s.rpt.rv = true ∧ ∃ st : Status, s.rpt.st = some st
      ∧ s.rpt.ipv = some (decide (st ≠ .tooShort)) ∧ s.rpt.l4v = some (decide (st = .decoded))
      ∧ s.rpt.l4k.isSome = decide (st = .decoded)
      ∧ s.rpt.ver.isSome = decide (st ≠ .tooShort) ∧ s.rpt.ihl.isSome = decide (st ≠ .tooShort)
      ∧ s.rpt.totlen.isSome = decide (st ≠ .tooShort) ∧ s.rpt.proto.isSome = decide (st ≠ .tooShort)
      ∧ s.rpt.src.isSome = decide (st ≠ .tooShort) ∧ s.rpt.dst.isSome = decide (st ≠ .tooShort)
      ∧ s.rpt.sport.isSome = decide (st = .decoded) ∧ s.rpt.dport.isSome = decide (st = .decoded)
      ∧ (st = .decoded → ((s.rpt.l4k = some .tcp ↔ s.rpt.proto = some 6)
          ∧ (s.rpt.l4k = some .udp ↔ s.rpt.proto = some 17))))

/-! ## Steps and events -/

/-- R62: when the block moves (it has no input to take, or the input is its own turn) and a decode is in progress, the
step is the micro-operation selected at the next place, that place taken off. -/
def Obligations.StepRunsSelectedOperation : Prop :=
  ∀ (s : State) (p : Place) (rest : List Place) (i : Instr),
    s.todo = p :: rest → decodeAt p s.rpt.proto = .ok i →
      (s.inputs = [] → step s = exec i { s with todo := rest })
      ∧ (∀ es, s.inputs = .tick :: es → step s = exec i { s with todo := rest, inputs := es })

/-- R136: a present that is allowed is `DECODE` run on the frame handed over, in one step. Beyond the bytes handed over
`FB` is as last written before (R37 (b), R40; assumption 24). -/
def Obligations.PresentRunsDecodeOnFrame : Prop :=
  ∀ (s : State) (frame : List Byte) (n : Nat) (es : List Event),
    s.inputs = .present frame n :: es → s.todo = [] → frame.length ≤ 1500 → n ≤ 1500 →
      ∃ s1 t : State, step s = exec .decode s1 ∧ exec .decode s1 = .next t
        ∧ s1.flen.toNat = n ∧ (∀ i (h : i < frame.length), s1.frameByte i = frame[i])
        ∧ (∀ a, frame.length ≤ a → s1.frameByte a = s.frameByte a) ∧ s1.build = s.build ∧ s1.inputs = es ∧ t.flen = s1.flen ∧ t.fb = s1.fb ∧ t.rpt.rv = true

/-- R42: a frame or a length beyond 1500 has no step, however it is handed over. -/
def Obligations.FrameTooLongIsRefused : Prop :=
  ∀ (s : State) (frame : List Byte) (n : Nat) (es : List Event),
    s.todo = [] → (1500 < frame.length ∨ 1500 < n) →
      (s.inputs = .present frame n :: es → step s = .refused .frameTooLong)
      ∧ (s.inputs = .start frame n :: es → step s = .refused .frameTooLong)

/-- R154, R37 (c): while a decode is in progress no frame can be handed over. -/
def Obligations.HandOverDuringDecodeIsRefused : Prop :=
  ∀ (s : State) (frame : List Byte) (n : Nat) (es : List Event),
    s.todo ≠ [] →
      (s.inputs = .present frame n :: es → step s = .refused .decodeInProgress)
      ∧ (s.inputs = .start frame n :: es → step s = .refused .decodeInProgress)

/-- R153: while a decode is in progress the Frame Source can change neither `FLEN` nor a byte of the frame. -/
def Obligations.FrameChangeDuringDecodeIsRefused : Prop :=
  ∀ (s : State) (es : List Event), s.todo ≠ [] → s.flen.toNat ≤ 1500 →
    (∀ n, s.inputs = .setFlen n :: es → step s = .refused .frameChanged)
    ∧ (∀ a b, a < s.flen.toNat → s.inputs = .write a b :: es → step s = .refused .frameChanged)

/-- R22, R40: between decodes a write of the Frame Source changes one byte of `FB` as the block reads it, and nothing
else of the machine; a byte that does not exist cannot be written (R11). -/
def Obligations.FrameSourceWriteChangesOneByte : Prop :=
  ∀ (s : State) (a : Nat) (b : Byte) (es : List Event), s.inputs = .write a b :: es →
    (s.todo = [] → a < 1500 → ∃ t, step s = .next t ∧ t.frameByte a = b
      ∧ (∀ x, x ≠ a → t.frameByte x = s.frameByte x)
      ∧ t = { s with fb := t.fb, inputs := es })
    ∧ (1500 ≤ a → step s = .fault .outsideBuffer)

/-- R136, R16, R13: reading the report has no effect and needs `RV` = 1; reading one register has no effect and needs
the register to hold a value in a report that exists. -/
def Obligations.ReadingTheReportHasNoEffect : Prop :=
  ∀ (s : State) (es : List Event),
    (s.inputs = .readReport :: es →
      (s.rpt.rv = true → s.readReport = some s.rpt ∧ step s = .next { s with inputs := es })
      ∧ (s.rpt.rv = false → s.readReport = none ∧ step s = .fault .noReport))
    ∧ (∀ reg, s.inputs = .readReg reg :: es →
      (∀ v, s.rpt.rv = true → s.rpt.value reg = some v →
        s.readReg reg = some v ∧ step s = .next { s with inputs := es })
      ∧ (s.rpt.rv = false ∨ s.rpt.value reg = none → step s = .fault (.noValue reg)))

/-- R135, R154: with nothing to do the machine holds its state, the last report in it. -/
def Obligations.IdleBlockHoldsItsReport : Prop :=
  ∀ s : State, s.inputs = [] → s.todo = [] → step s = .next s

/-! ## The frame-length validator -/

/-- R70, R121: `LENGUARD` raises `TooShort` exactly below 20 bytes: status 1, `IPV` and `L4V` 0, no register holds a value,
the decode ends; from 20 bytes on it writes no register and goes on with step 2. -/
def Obligations.LenguardGuardsTwentyBytes : Prop :=
  ∀ s : State,
    (s.flen.toNat < 20 →
      exec .lenguard s = .next (s.finishedWith (rptRow .tooShort false false none none none)))
    ∧ (20 ≤ s.flen.toNat →
      exec .lenguard s = .next { s with todo :=
        [.version, .headerLength, .totalLength, .protocol, .source, .destination, .offset]
          ++ (if s.build.ihlMinCheck then [.ihlCheck, .tcpRow] else [.tcpRow]) })

/-- R71, R73: `TCPFIT` holds `FLEN >= TOFF + 20` over the natural numbers and changes nothing else. -/
def Obligations.TcpfitComparesExactly : Prop :=
  ∀ (s : State) (t : BitVec 6), s.toff = some t →
    exec .tcpfit s = .next { s with tcpFit := some (decide (t.toNat + 20 ≤ s.flen.toNat)) }

/-- R72, R73: `UDPFIT` holds `FLEN >= TOFF + 8` over the natural numbers and changes nothing else. -/
def Obligations.UdpfitComparesExactly : Prop :=
  ∀ (s : State) (t : BitVec 6), s.toff = some t →
    exec .udpfit s = .next { s with udpFit := some (decide (t.toNat + 8 ≤ s.flen.toNat)) }

/-! ## The IP header decoder -/

/-- R80: `VER` becomes the high nibble of `F[0]`. No flag of its own: the group of R86 may set `IPV`. Nothing else changes. -/
def Obligations.XverHoldsHighNibble : Prop :=
  ∀ s : State, 1 ≤ s.flen.toNat →
    ∃ (v : BitVec 4) (ipv : Option Bool), v.toNat = (s.frameByte 0).toNat / 16 ∧ (ipv = s.rpt.ipv ∨ ipv = some true)
      ∧ exec .xver s = .next { s with rpt := { s.rpt with ver := some v, ipv := ipv } }

/-- R81: `IHL` becomes the low nibble of `F[0]`, not multiplied. No flag of its own: the group of R86 may set `IPV`. Nothing else
changes. -/
def Obligations.XihlHoldsLowNibble : Prop :=
  ∀ s : State, 1 ≤ s.flen.toNat →
    ∃ (v : BitVec 4) (ipv : Option Bool), v.toNat = (s.frameByte 0).toNat % 16 ∧ (ipv = s.rpt.ipv ∨ ipv = some true)
      ∧ exec .xihl s = .next { s with rpt := { s.rpt with ihl := some v, ipv := ipv } }

/-- R82: `TOTLEN` becomes `F[2] * 256 + F[3]`. No flag of its own: the group of R86 may set `IPV`. Nothing else changes. -/
def Obligations.XtotlenHoldsBigEndianLength : Prop :=
  ∀ s : State, 4 ≤ s.flen.toNat →
    ∃ (v : BitVec 16) (ipv : Option Bool), v.toNat = (s.frameByte 2).toNat * 256 + (s.frameByte 3).toNat
      ∧ (ipv = s.rpt.ipv ∨ ipv = some true)
      ∧ exec .xtotlen s = .next { s with rpt := { s.rpt with totlen := some v, ipv := ipv } }

/-- R83: `PROTO` becomes `F[9]`. No flag of its own: the group of R86 may set `IPV`. Nothing else changes. -/
def Obligations.XprotoHoldsByteNine : Prop :=
  ∀ s : State, 10 ≤ s.flen.toNat →
    ∃ ipv : Option Bool, (ipv = s.rpt.ipv ∨ ipv = some true)
      ∧ exec .xproto s = .next { s with rpt := { s.rpt with proto := some (s.frameByte 9), ipv := ipv } }

/-- R84: `SRC` becomes `F[12]` to `F[15]` verbatim and in order. No flag of its own: the group of R86 may set `IPV`. Nothing
else changes. -/
def Obligations.XsrcHoldsBytesVerbatim : Prop :=
  ∀ s : State, 16 ≤ s.flen.toNat →
    ∃ ipv : Option Bool, (ipv = s.rpt.ipv ∨ ipv = some true) ∧ exec .xsrc s = .next { s with rpt := { s.rpt with
      src := some ⟨s.frameByte 12, s.frameByte 13, s.frameByte 14, s.frameByte 15⟩, ipv := ipv } }

/-- R85: `DST` becomes `F[16]` to `F[19]` verbatim and in order. No flag of its own: the group of R86 may set `IPV`. Nothing
else changes. -/
def Obligations.XdstHoldsBytesVerbatim : Prop :=
  ∀ s : State, 20 ≤ s.flen.toNat →
    ∃ ipv : Option Bool, (ipv = s.rpt.ipv ∨ ipv = some true) ∧ exec .xdst s = .next { s with rpt := { s.rpt with
      dst := some ⟨s.frameByte 16, s.frameByte 17, s.frameByte 18, s.frameByte 19⟩, ipv := ipv } }

/-- R86: the six extractions, in whatever order, complete and give one and the same state: the six values of the frame
in their registers, `IPV` set by the group, everything else as before. -/
def Obligations.Step2OrderDoesNotMatter : Prop :=
  ∀ (s : State) (is : List Instr), 20 ≤ s.flen.toNat → is.Perm step2Instrs →
    ∃ ip : IpFields, IpReadFrom ip s.frameByte
      ∧ execAll is s = .next { s with rpt := { s.rpt with
        ver := some ip.ver, ihl := some ip.ihl, totlen := some ip.totlen, proto := some ip.proto,
        src := some ip.src, dst := some ip.dst, ipv := some true } }

/-! ## Transport offset and dispatch -/

/-- R90: `TOFF` becomes `IHL * 4`, exactly; nothing else changes. -/
def Obligations.ToffcalcMultipliesByFour : Prop :=
  ∀ (s : State) (ihl : BitVec 4), s.rpt.ihl = some ihl →
    ∃ t : BitVec 6, t.toNat = ihl.toNat * 4 ∧ exec .toffcalc s = .next { s with toff := some t }

/-- R92: with `IHL_MIN_CHECK`, an `IHL` below 5 raises `UnsupportedOrTruncated` and leaves the six IP registers as they
are, any other goes on with the dispatch; without it the operation has no effect. -/
def Obligations.IhlchkRejectsShortHeaders : Prop :=
  ∀ s : State,
    (s.build.ihlMinCheck = false → exec .ihlchk s = .next s)
    ∧ (∀ ihl, s.build.ihlMinCheck = true → s.rpt.ihl = some ihl →
      (ihl.toNat < 5 → exec .ihlchk s = .next (s.finishedWith
        { s.rpt with rv := true, st := some .unsupportedOrTruncated, ipv := some true, l4v := some false
                     l4k := none, sport := none, dport := none }))
      ∧ (5 ≤ ihl.toNat → exec .ihlchk s = .next { s with todo := [.tcpRow] }))

/-- R91, R54, arm TCP: with `PROTO` 6 and `FLEN >= TOFF + 20` the ports of the frame at `TOFF` are held, status 0, `IPV` and
`L4V` 1, `L4K` TCP, the IP registers untouched, the decode ends. -/
def Obligations.DispatchTcpArmTaken : Prop :=
  ∀ (s : State) (t : BitVec 6), s.rpt.proto = some 6 → s.toff = some t → t.toNat + 20 ≤ s.flen.toNat →
    ∃ sport dport, PortsReadFrom s.frameByte t.toNat sport dport
      ∧ exec .dispatchTcp s = .next (s.finishedWith
        { s.rpt with rv := true, st := some .decoded, ipv := some true, l4v := some true, l4k := some .tcp
                     sport := some sport, dport := some dport })

/-- R91, R54, arm UDP: with `PROTO` 17 and `FLEN >= TOFF + 8` the same, `L4K` UDP. -/
def Obligations.DispatchUdpArmTaken : Prop :=
  ∀ (s : State) (t : BitVec 6), s.rpt.proto = some 17 → s.toff = some t → t.toNat + 8 ≤ s.flen.toNat →
    ∃ sport dport, PortsReadFrom s.frameByte t.toNat sport dport
      ∧ exec .dispatchUdp s = .next (s.finishedWith
        { s.rpt with rv := true, st := some .decoded, ipv := some true, l4v := some true, l4k := some .udp
                     sport := some sport, dport := some dport })

/-- R54, R62: an arm whose condition fails falls through to the next row, keeps the result of its length test (the model's
way to hold it: assumption 10), and writes no register of the report. -/
def Obligations.DispatchArmFallsThrough : Prop :=
  ∀ (s : State) (p : Byte) (t : BitVec 6), s.rpt.proto = some p → s.toff = some t →
    (¬ (p = 6 ∧ t.toNat + 20 ≤ s.flen.toNat) →
      exec .dispatchTcp s = .next
        { s with tcpFit := some (decide (t.toNat + 20 ≤ s.flen.toNat)), todo := [.udpRow] })
    ∧ (¬ (p = 17 ∧ t.toNat + 8 ≤ s.flen.toNat) →
      exec .dispatchUdp s = .next
        { s with udpFit := some (decide (t.toNat + 8 ≤ s.flen.toNat)), todo := [.elseRow] })

/-- R91, R122, arm ELSE: raises `UnsupportedOrTruncated` in every state: status 2, `IPV` 1, `L4V` 0, no port and no `L4K`
holds a value, the IP registers untouched, the decode ends. -/
def Obligations.DispatchElseRaises : Prop :=
  ∀ s : State, exec .dispatchElse s = .next (s.finishedWith
    { s.rpt with rv := true, st := some .unsupportedOrTruncated, ipv := some true, l4v := some false
                 l4k := none, sport := none, dport := none })

/-! ## The port extractor -/

/-- R100: `SPORT` becomes the big-endian number at `TOFF`. No flag of its own: the pair of R102 may set `L4V`. `TOFF` and
all else stay. -/
def Obligations.XsportHoldsSourcePort : Prop :=
  ∀ (s : State) (t : BitVec 6), s.toff = some t → t.toNat + 2 ≤ s.flen.toNat →
    ∃ (v : BitVec 16) (l4v : Option Bool),
      v.toNat = (s.frameByte t.toNat).toNat * 256 + (s.frameByte (t.toNat + 1)).toNat
      ∧ (l4v = s.rpt.l4v ∨ l4v = some true)
      ∧ exec .xsport s = .next { s with rpt := { s.rpt with sport := some v, l4v := l4v } }

/-- R101: `DPORT` becomes the big-endian number at `TOFF + 2`. No flag of its own: the pair of R102 may set `L4V`. `TOFF`
and all else stay. -/
def Obligations.XdportHoldsDestinationPort : Prop :=
  ∀ (s : State) (t : BitVec 6), s.toff = some t → t.toNat + 4 ≤ s.flen.toNat →
    ∃ (v : BitVec 16) (l4v : Option Bool),
      v.toNat = (s.frameByte (t.toNat + 2)).toNat * 256 + (s.frameByte (t.toNat + 3)).toNat
      ∧ (l4v = s.rpt.l4v ∨ l4v = some true)
      ∧ exec .xdport s = .next { s with rpt := { s.rpt with dport := some v, l4v := l4v } }

/-! ## All operations -/

/-- R22, R33, R18: no micro-operation writes the frame, its length, the parameter of the instance or anything of the
environment; every byte of the frame reads as before. -/
def Obligations.OperationsLeaveTheFrameAlone : Prop :=
  ∀ (i : Instr) (s t : State), exec i s = .next t →
    t.fb = s.fb ∧ t.flen = s.flen ∧ t.build = s.build ∧ t.inputs = s.inputs ∧ t.fbEpoch = s.fbEpoch
      ∧ (∀ a, t.fb.read a = s.fb.read a) ∧ ∀ a, t.frameByte a = s.frameByte a

/-- R80 to R86, R100 to R102, the frame: a data extraction changes no register of the report but its own, no `RV`, no
`TOFF`, no test result, not the course of the decode, and no flag but its group's: an IP extraction sets `IPV` exactly
when it leaves all six IP registers holding values, a port extraction `L4V` exactly when it leaves both ports holding
values. That the extraction completing the group is the one that sets its flag is the model's reading of "as a group"
(assumption 23). -/
def Obligations.ExtractionsChangeOnlyTheirRegister : Prop :=
  ∀ (i : Instr) (d : Reg) (s t : State), destReg i = some d → exec i s = .next t →
    (∀ r, r ≠ d → r ≠ .ipv → r ≠ .l4v → t.rpt.value r = s.rpt.value r) ∧ (t.rpt.value d).isSome = true
      ∧ t.rpt.rv = s.rpt.rv ∧ t.toff = s.toff ∧ t.tcpFit = s.tcpFit ∧ t.udpFit = s.udpFit ∧ t.todo = s.todo
      ∧ (i ∈ step2Instrs → t.rpt.l4v = s.rpt.l4v
        ∧ t.rpt.ipv = if t.rpt.ver.isSome ∧ t.rpt.ihl.isSome ∧ t.rpt.totlen.isSome ∧ t.rpt.proto.isSome
            ∧ t.rpt.src.isSome ∧ t.rpt.dst.isSome then some true else s.rpt.ipv)
      ∧ (i ∉ step2Instrs → t.rpt.ipv = s.rpt.ipv
        ∧ t.rpt.l4v = if t.rpt.sport.isSome ∧ t.rpt.dport.isSome then some true else s.rpt.l4v)

/-- R120, R121, R122: a status is written only by the operations the spec names; `TooShort` only by `LENGUARD` and `DECODE` on
a frame of fewer than 20 bytes. -/
def Obligations.StatusWrittenOnlyWhereNamed : Prop :=
  ∀ (i : Instr) (s t : State), exec i s = .next t →
    (t.rpt.st ≠ s.rpt.st → i ∈ [.decode, .lenguard, .ihlchk, .dispatchTcp, .dispatchUdp, .dispatchElse])
    ∧ (t.rpt.st = some .tooShort → s.rpt.st = some .tooShort ∨ (i ∈ [.decode, .lenguard] ∧ s.flen.toNat < 20))

/-- R13, R17, R35, U6 (the model's stops, all off the decode's own course: assumptions 9, 12): an operation whose operand
does not exist stops by name. -/
def Obligations.OperationsStopWithoutOperand : Prop :=
  ∀ s : State,
    (s.rpt.ihl = none → exec .toffcalc s = .fault (.noValue .ihl)
      ∧ (s.build.ihlMinCheck = true → exec .ihlchk s = .fault (.noValue .ihl)))
    ∧ (s.rpt.proto = none → exec .dispatchTcp s = .fault (.noValue .proto)
      ∧ exec .dispatchUdp s = .fault (.noValue .proto))
    ∧ (s.toff = none → exec .tcpfit s = .fault .noOffset ∧ exec .udpfit s = .fault .noOffset
      ∧ exec .xsport s = .fault .noOffset ∧ exec .xdport s = .fault .noOffset
      ∧ (s.rpt.proto ≠ none → exec .dispatchTcp s = .fault .noOffset ∧ exec .dispatchUdp s = .fault .noOffset))
    ∧ (∀ t, s.toff = some t → (s.flen.toNat < t.toNat + 2 → exec .xsport s = .fault .outsideFrame)
      ∧ (s.flen.toNat < t.toNat + 4 → exec .xdport s = .fault .outsideFrame))
    ∧ (s.flen.toNat < 1 → exec .xver s = .fault .outsideFrame ∧ exec .xihl s = .fault .outsideFrame)
    ∧ (s.flen.toNat < 4 → exec .xtotlen s = .fault .outsideFrame)
    ∧ (s.flen.toNat < 10 → exec .xproto s = .fault .outsideFrame)
    ∧ (s.flen.toNat < 16 → exec .xsrc s = .fault .outsideFrame)
    ∧ (s.flen.toNat < 20 → exec .xdst s = .fault .outsideFrame)

/-! ## The whole decode -/

/-- R110 step 1, R121: a frame of fewer than 20 bytes gives `TooShort` and no field, whatever it contains. -/
def Obligations.DecodeReportsTooShort : Prop :=
  ∀ s : State, s.flen.toNat < 20 →
    exec .decode s = .next (s.finishedWith (rptRow .tooShort false false none none none))

/-- R110, R114, the whole decode in one step: a frame of fewer than 20 bytes gives the row "too short"; from 20 bytes on
`IHL_MIN_CHECK` rejects an `IHL` below 5, then the first dispatch arm that holds gives the row TCP or UDP, else the row
"unsupported or truncated"; each row with the values of the frame and nothing else of the earlier report. -/
def Obligations.DecodeFollowsTheAlgorithm : Prop :=
  ∀ s : State, ∃ ip : IpFields, IpReadFrom ip s.frameByte ∧
    ∃ sport dport, PortsReadFrom s.frameByte (ip.ihl.toNat * 4) sport dport ∧
    exec .decode s = .next (s.finishedWith (
      if s.flen.toNat < 20 then rptRow .tooShort false false none none none
      else if s.build.ihlMinCheck = true ∧ ip.ihl.toNat < 5 then
        rptRow .unsupportedOrTruncated true false none (some ip) none
      else if ip.proto = 6 ∧ ip.ihl.toNat * 4 + 20 ≤ s.flen.toNat then
        rptRow .decoded true true (some .tcp) (some ip) (some (sport, dport))
      else if ip.proto = 17 ∧ ip.ihl.toNat * 4 + 8 ≤ s.flen.toNat then
        rptRow .decoded true true (some .udp) (some ip) (some (sport, dport))
      else rptRow .unsupportedOrTruncated true false none (some ip) none))

/-- R56: every protocol but 6 and 17 gives `UnsupportedOrTruncated` from 20 bytes on, whatever the length and the build, with
the six IP values and no port. -/
def Obligations.UnknownProtocolIsUnsupported : Prop :=
  ∀ s : State, 20 ≤ s.flen.toNat → s.frameByte 9 ≠ 6 → s.frameByte 9 ≠ 17 →
    ∃ ip : IpFields, IpReadFrom ip s.frameByte ∧ exec .decode s =
      .next (s.finishedWith (rptRow .unsupportedOrTruncated true false none (some ip) none))

/-- R103: a frame of 20 bytes or more with an `IHL` k below 5. In the default build, with a length that fits its transport
at `TOFF` = 4k, the ports overlap the IP header as the table says; with a shorter length, another protocol or
`IHL_MIN_CHECK`, no transport is decoded. -/
def Obligations.ShortHeaderPortsOverlapIpHeader : Prop :=
  ∀ (s : State) (k : Nat), k < 5 → (s.frameByte 0).toNat % 16 = k → 20 ≤ s.flen.toNat →
    let fits := s.build.ihlMinCheck = false
      ∧ (s.frameByte 9 = 6 ∧ 4 * k + 20 ≤ s.flen.toNat ∨ s.frameByte 9 = 17 ∧ 4 * k + 8 ≤ s.flen.toNat)
    (fits → ∃ t sport dport, exec .decode s = .next t ∧ t.rpt.st = some .decoded
      ∧ t.rpt.sport = some sport ∧ t.rpt.dport = some dport
      ∧ sport = s.frameByte (4 * k) ++ s.frameByte (4 * k + 1)
      ∧ dport = s.frameByte (4 * k + 2) ++ s.frameByte (4 * k + 3)
      ∧ (k = 0 → t.rpt.totlen = some dport)
      ∧ (k = 2 → t.rpt.proto = some (sport.extractLsb' 0 8))
      ∧ (k = 3 → ∃ a, t.rpt.src = some a ∧ sport = a.b0 ++ a.b1 ∧ dport = a.b2 ++ a.b3)
      ∧ (k = 4 → ∃ a, t.rpt.dst = some a ∧ sport = a.b0 ++ a.b1 ∧ dport = a.b2 ++ a.b3))
    ∧ (¬ fits → ∃ t, exec .decode s = .next t ∧ t.rpt.st = some .unsupportedOrTruncated)

/-- R111: two states of one build with frames of one length that agree on the bytes a decode reads get the same report,
whatever else differs in them: other bytes of the frame, bytes beyond it, the earlier report, the rest; and the decode
changes nothing but the report (and ends what lives only inside a decode). -/
def Obligations.ReportDependsOnlyOnBytesRead : Prop :=
  ∀ s s' : State, s'.build = s.build → s'.flen = s.flen →
    (∀ a ∈ bytesRead s.build.ihlMinCheck s.frameByte s.flen.toNat, s'.frameByte a = s.frameByte a) →
    ∃ t t', exec .decode s = .next t ∧ exec .decode s' = .next t' ∧ t'.rpt = t.rpt ∧ t = s.finishedWith t.rpt

/-- R35, R158: the bytes a decode reads are all part of the frame, and at most 16. -/
def Obligations.BytesReadLieInsideTheFrame : Prop :=
  ∀ (chk : Bool) (F : Nat → Byte) (flen : Nat),
    (∀ a ∈ bytesRead chk F flen, a < flen) ∧ (bytesRead chk F flen).length ≤ 16

/-- R110, R17, R37, R93: a decode performed one micro-operation a step, through the frame-guarded reads of the separate
operations, ends within twelve steps in the very state the atomic present gives. -/
def Obligations.StepwiseDecodeEqualsAtomicDecode : Prop :=
  ∀ (s : State) (frame : List Byte) (n : Nat), s.todo = [] → frame.length ≤ 1500 → n ≤ 1500 →
    ∃ k t, k ≤ 12 ∧ step { s with inputs := [.present frame n] } = .next t
      ∧ runSteps k { s with inputs := [.start frame n] } = .next t

/-- R113, R111, R16: a stream of frames gives, frame by frame, the report of each frame alone, from any state in which no decode
is in progress, whatever was decoded before. -/
def Obligations.StreamReportsEachFrameAlone : Prop :=
  ∀ (s : State) (frames : List (List Byte)), s.todo = [] → (∀ f ∈ frames, f.length ≤ 1500) →
    s.inputs = frames.map (fun f => .present f f.length) →
    ∀ (k : Nat) (h : k < frames.length), ∃ t, runSteps (k + 1) s = .next t
      ∧ t.rpt = (decodeFrame s.build.ihlMinCheck (listByte frames[k]) frames[k].length).toRpt

/-- R16, R43, R20: the report of a present whose length is accurate does not depend on the earlier report, the earlier
contents of the buffer, or anything but the frame and the build. -/
def Obligations.PresentForgetsEarlierState : Prop :=
  ∀ (s s' : State) (frame : List Byte) (n : Nat) (es es' : List Event),
    s.todo = [] → s'.todo = [] → s'.build = s.build → frame.length ≤ 1500 → n ≤ frame.length →
    s.inputs = .present frame n :: es → s'.inputs = .present frame n :: es' →
    ∃ t t', step s = .next t ∧ step s' = .next t' ∧ t'.rpt = t.rpt

/-! ## Encodings -/

/-- Section 8's round trip (E1), R51, R52, R61: a TCP frame built from any field values, any unread bytes, any bytes
between the header and `TOFF` and any rest of at least 16 bytes, presented, is reported with exactly those values, in
both builds. -/
def Obligations.TcpFrameRoundTrip : Prop :=
  ∀ (s : State) (es : List Event) (h : IpFields) (u : UnreadBytes) (gap : List Byte) (sport dport : BitVec 16)
    (rest : List Byte),
    s.todo = [] → h.proto = 6 → gap.length + 20 = h.ihl.toNat * 4 → 16 ≤ rest.length →
    (encodeFrame h u gap sport dport rest).length ≤ 1500 →
    s.inputs = .present (encodeFrame h u gap sport dport rest) (encodeFrame h u gap sport dport rest).length :: es →
    ∃ t, step s = .next t ∧ t.inputs = es
      ∧ t.rpt = rptRow .decoded true true (some .tcp) (some h) (some (sport, dport))

/-- The same for a UDP frame with any rest of at least 4 bytes (R51, R52, R61, R72). -/
def Obligations.UdpFrameRoundTrip : Prop :=
  ∀ (s : State) (es : List Event) (h : IpFields) (u : UnreadBytes) (gap : List Byte) (sport dport : BitVec 16)
    (rest : List Byte),
    s.todo = [] → h.proto = 17 → gap.length + 20 = h.ihl.toNat * 4 → 4 ≤ rest.length →
    (encodeFrame h u gap sport dport rest).length ≤ 1500 →
    s.inputs = .present (encodeFrame h u gap sport dport rest) (encodeFrame h u gap sport dport rest).length :: es →
    ∃ t, step s = .next t ∧ t.inputs = es
      ∧ t.rpt = rptRow .decoded true true (some .udp) (some h) (some (sport, dport))

/-- R51: where the six fields stand in the 160-bit string of the header. -/
def Obligations.IphFieldsByBitPosition : Prop :=
  ∀ F : Nat → Byte,
    (ipFieldsOf F).ver.toNat = bytesNumber F 20 / 2 ^ 156 % 2 ^ 4
    ∧ (ipFieldsOf F).ihl.toNat = bytesNumber F 20 / 2 ^ 152 % 2 ^ 4
    ∧ (ipFieldsOf F).totlen.toNat = bytesNumber F 20 / 2 ^ 128 % 2 ^ 16
    ∧ (ipFieldsOf F).proto.toNat = bytesNumber F 20 / 2 ^ 80 % 2 ^ 8
    ∧ (ipFieldsOf F).src.toWord.toNat = bytesNumber F 20 / 2 ^ 32 % 2 ^ 32
    ∧ (ipFieldsOf F).dst.toWord.toNat = bytesNumber F 20 % 2 ^ 32

/-- R52: where the two ports stand in the 32-bit string at `TOFF`. -/
def Obligations.L4pFieldsByBitPosition : Prop :=
  ∀ (F : Nat → Byte) (t : Nat),
    (sourcePortAt F t).toNat = bytesNumber (fun i => F (t + i)) 4 / 2 ^ 16
    ∧ (destPortAt F t).toNat = bytesNumber (fun i => F (t + i)) 4 % 2 ^ 16

/-- R54, R56, R62: the dispatch map: 6 selects the TCP row, 17 the UDP row, each of the other 254 values the failure row; a
row that fell through leaves only the later rows. -/
def Obligations.DispatchMapSelectsByProtocol : Prop :=
  ∀ p : Byte,
    decodeAt .tcpRow (some p)
      = .ok (if p = 6 then .dispatchTcp else if p = 17 then .dispatchUdp else .dispatchElse)
    ∧ decodeAt .udpRow (some p) = .ok (if p = 17 then .dispatchUdp else .dispatchElse)
    ∧ decodeAt .elseRow (some p) = .ok .dispatchElse

/-- R54, R62: at its place every micro-operation is selected by the bits the encoder gives it. -/
def Obligations.EncodedOperationIsSelected : Prop :=
  ∀ (b : Config.Build) (i : Instr), i.wellFormed b = true →
    decodeAt (placeOf i) (encode i).head? = .ok i

/-- R51, R52, R54 on words written out by hand: the dispatch bytes 0x06, 0x11 and 0x01; the 20-byte header of frame E1 and
its four port bytes. -/
def Obligations.SampleWordsDecode : Prop :=
  decodeTableWord 8 0x06 = some .dispatchTcp ∧ decodeTableWord 8 0x11 = some .dispatchUdp
    ∧ decodeTableWord 8 0x01 = some .dispatchElse
    ∧ decodeTableWord 160 0x4500002800000000400600000A0000010A000002 = some .decode
    ∧ decodeTableWord 32 0x01BBC738 = some .xsport
    ∧ ipFieldsOf (listByte (wordBytes 20 0x4500002800000000400600000A0000010A000002))
        = ⟨4, 5, 40, 6, ⟨10, 0, 0, 1⟩, ⟨10, 0, 0, 2⟩⟩
    ∧ sourcePortAt (listByte (wordBytes 4 0x01BBC738)) 0 = 443
    ∧ destPortAt (listByte (wordBytes 4 0x01BBC738)) 0 = 51000

/-! ## What a decode sees of the buffer -/

/-- R37 (b), R40: a byte the Frame Source wrote before a present is seen by that decode as last written, unless the frame
handed over covers it; no hand-over loses it. The single write is the model's event (assumption 16), the keeping of bytes
beyond those handed over is assumption 24. -/
def Obligations.DecodeSeesBytesAsLastWritten : Prop :=
  ∀ (s : State) (a : Nat) (b : Byte) (frame : List Byte) (n : Nat) (es : List Event),
    s.todo = [] → a < 1500 → frame.length ≤ 1500 → n ≤ 1500 →
    s.inputs = .write a b :: .present frame n :: es →
    ∃ s1 s2 t, step s = .next s1 ∧ step s1 = exec .decode s2 ∧ exec .decode s2 = .next t ∧ s2.flen.toNat = n
      ∧ s2.frameByte a = (if h : a < frame.length then frame[a] else b)
      ∧ ∀ x, x ≠ a → s2.frameByte x = (if h : x < frame.length then frame[x] else s.frameByte x)

/-- R102: the two port extractions, in either order, complete and give one and the same state: both ports of the frame at
`TOFF`, `L4V` set by the pair, everything else as before. -/
def Obligations.PortsOrderDoesNotMatter : Prop :=
  ∀ (s : State) (t : BitVec 6) (is : List Instr), s.toff = some t → t.toNat + 4 ≤ s.flen.toNat →
    is.Perm [.xsport, .xdport] →
    ∃ sport dport, PortsReadFrom s.frameByte t.toNat sport dport
      ∧ execAll is s = .next { s with rpt := { s.rpt with
        sport := some sport, dport := some dport, l4v := some true } }
end

