-- ==== Sys2Proof/Laws/State.lean ====
section
/-! SUPPORT. One lemma per field of the state per named update, and what an update leaves of the frame's bytes. -/

namespace Sys2Proof.Machine

@[simp] theorem State.setRpt_fb (s : State) (r : Rpt) : (s.setRpt r).fb = s.fb := rfl
@[simp] theorem State.setRpt_flen (s : State) (r : Rpt) : (s.setRpt r).flen = s.flen := rfl
@[simp] theorem State.setRpt_rpt (s : State) (r : Rpt) : (s.setRpt r).rpt = r := rfl
@[simp] theorem State.setRpt_toff (s : State) (r : Rpt) : (s.setRpt r).toff = s.toff := rfl
@[simp] theorem State.setRpt_tcpFit (s : State) (r : Rpt) : (s.setRpt r).tcpFit = s.tcpFit := rfl
@[simp] theorem State.setRpt_udpFit (s : State) (r : Rpt) : (s.setRpt r).udpFit = s.udpFit := rfl
@[simp] theorem State.setRpt_build (s : State) (r : Rpt) : (s.setRpt r).build = s.build := rfl
@[simp] theorem State.setRpt_todo (s : State) (r : Rpt) : (s.setRpt r).todo = s.todo := rfl
@[simp] theorem State.setRpt_inputs (s : State) (r : Rpt) : (s.setRpt r).inputs = s.inputs := rfl
@[simp] theorem State.setRpt_fbEpoch (s : State) (r : Rpt) : (s.setRpt r).fbEpoch = s.fbEpoch := rfl
@[simp] theorem State.setRpt_frameByte (s : State) (r : Rpt) : (s.setRpt r).frameByte = s.frameByte := rfl

@[simp] theorem State.setToff_fb (s : State) (t : BitVec 6) : (s.setToff t).fb = s.fb := rfl
@[simp] theorem State.setToff_flen (s : State) (t : BitVec 6) : (s.setToff t).flen = s.flen := rfl
@[simp] theorem State.setToff_rpt (s : State) (t : BitVec 6) : (s.setToff t).rpt = s.rpt := rfl
@[simp] theorem State.setToff_toff (s : State) (t : BitVec 6) : (s.setToff t).toff = some t := rfl
@[simp] theorem State.setToff_tcpFit (s : State) (t : BitVec 6) : (s.setToff t).tcpFit = s.tcpFit := rfl
@[simp] theorem State.setToff_udpFit (s : State) (t : BitVec 6) : (s.setToff t).udpFit = s.udpFit := rfl
@[simp] theorem State.setToff_build (s : State) (t : BitVec 6) : (s.setToff t).build = s.build := rfl
@[simp] theorem State.setToff_todo (s : State) (t : BitVec 6) : (s.setToff t).todo = s.todo := rfl
@[simp] theorem State.setToff_inputs (s : State) (t : BitVec 6) : (s.setToff t).inputs = s.inputs := rfl
@[simp] theorem State.setToff_fbEpoch (s : State) (t : BitVec 6) : (s.setToff t).fbEpoch = s.fbEpoch := rfl
@[simp] theorem State.setToff_frameByte (s : State) (t : BitVec 6) : (s.setToff t).frameByte = s.frameByte := rfl

@[simp] theorem State.setTcpFit_fb (s : State) (r : Bool) : (s.setTcpFit r).fb = s.fb := rfl
@[simp] theorem State.setTcpFit_flen (s : State) (r : Bool) : (s.setTcpFit r).flen = s.flen := rfl
@[simp] theorem State.setTcpFit_rpt (s : State) (r : Bool) : (s.setTcpFit r).rpt = s.rpt := rfl
@[simp] theorem State.setTcpFit_toff (s : State) (r : Bool) : (s.setTcpFit r).toff = s.toff := rfl
@[simp] theorem State.setTcpFit_tcpFit (s : State) (r : Bool) : (s.setTcpFit r).tcpFit = some r := rfl
@[simp] theorem State.setTcpFit_udpFit (s : State) (r : Bool) : (s.setTcpFit r).udpFit = s.udpFit := rfl
@[simp] theorem State.setTcpFit_build (s : State) (r : Bool) : (s.setTcpFit r).build = s.build := rfl
@[simp] theorem State.setTcpFit_todo (s : State) (r : Bool) : (s.setTcpFit r).todo = s.todo := rfl
@[simp] theorem State.setTcpFit_inputs (s : State) (r : Bool) : (s.setTcpFit r).inputs = s.inputs := rfl
@[simp] theorem State.setTcpFit_fbEpoch (s : State) (r : Bool) : (s.setTcpFit r).fbEpoch = s.fbEpoch := rfl
@[simp] theorem State.setTcpFit_frameByte (s : State) (r : Bool) : (s.setTcpFit r).frameByte = s.frameByte := rfl

@[simp] theorem State.setUdpFit_fb (s : State) (r : Bool) : (s.setUdpFit r).fb = s.fb := rfl
@[simp] theorem State.setUdpFit_flen (s : State) (r : Bool) : (s.setUdpFit r).flen = s.flen := rfl
@[simp] theorem State.setUdpFit_rpt (s : State) (r : Bool) : (s.setUdpFit r).rpt = s.rpt := rfl
@[simp] theorem State.setUdpFit_toff (s : State) (r : Bool) : (s.setUdpFit r).toff = s.toff := rfl
@[simp] theorem State.setUdpFit_tcpFit (s : State) (r : Bool) : (s.setUdpFit r).tcpFit = s.tcpFit := rfl
@[simp] theorem State.setUdpFit_udpFit (s : State) (r : Bool) : (s.setUdpFit r).udpFit = some r := rfl
@[simp] theorem State.setUdpFit_build (s : State) (r : Bool) : (s.setUdpFit r).build = s.build := rfl
@[simp] theorem State.setUdpFit_todo (s : State) (r : Bool) : (s.setUdpFit r).todo = s.todo := rfl
@[simp] theorem State.setUdpFit_inputs (s : State) (r : Bool) : (s.setUdpFit r).inputs = s.inputs := rfl
@[simp] theorem State.setUdpFit_fbEpoch (s : State) (r : Bool) : (s.setUdpFit r).fbEpoch = s.fbEpoch := rfl
@[simp] theorem State.setUdpFit_frameByte (s : State) (r : Bool) : (s.setUdpFit r).frameByte = s.frameByte := rfl

@[simp] theorem State.continueAt_fb (s : State) (ps : List Place) : (s.continueAt ps).fb = s.fb := rfl
@[simp] theorem State.continueAt_flen (s : State) (ps : List Place) : (s.continueAt ps).flen = s.flen := rfl
@[simp] theorem State.continueAt_rpt (s : State) (ps : List Place) : (s.continueAt ps).rpt = s.rpt := rfl
@[simp] theorem State.continueAt_toff (s : State) (ps : List Place) : (s.continueAt ps).toff = s.toff := rfl
@[simp] theorem State.continueAt_tcpFit (s : State) (ps : List Place) : (s.continueAt ps).tcpFit = s.tcpFit := rfl
@[simp] theorem State.continueAt_udpFit (s : State) (ps : List Place) : (s.continueAt ps).udpFit = s.udpFit := rfl
@[simp] theorem State.continueAt_build (s : State) (ps : List Place) : (s.continueAt ps).build = s.build := rfl
@[simp] theorem State.continueAt_todo (s : State) (ps : List Place) : (s.continueAt ps).todo = ps := rfl
@[simp] theorem State.continueAt_inputs (s : State) (ps : List Place) : (s.continueAt ps).inputs = s.inputs := rfl
@[simp] theorem State.continueAt_fbEpoch (s : State) (ps : List Place) : (s.continueAt ps).fbEpoch = s.fbEpoch := rfl
@[simp] theorem State.continueAt_frameByte (s : State) (ps : List Place) : (s.continueAt ps).frameByte = s.frameByte := rfl

@[simp] theorem State.endDecode_fb (s : State) : (s.endDecode).fb = s.fb := rfl
@[simp] theorem State.endDecode_flen (s : State) : (s.endDecode).flen = s.flen := rfl
@[simp] theorem State.endDecode_rpt (s : State) : (s.endDecode).rpt = s.rpt := rfl
@[simp] theorem State.endDecode_toff (s : State) : (s.endDecode).toff = none := rfl
@[simp] theorem State.endDecode_tcpFit (s : State) : (s.endDecode).tcpFit = none := rfl
@[simp] theorem State.endDecode_udpFit (s : State) : (s.endDecode).udpFit = none := rfl
@[simp] theorem State.endDecode_build (s : State) : (s.endDecode).build = s.build := rfl
@[simp] theorem State.endDecode_todo (s : State) : (s.endDecode).todo = [] := rfl
@[simp] theorem State.endDecode_inputs (s : State) : (s.endDecode).inputs = s.inputs := rfl
@[simp] theorem State.endDecode_fbEpoch (s : State) : (s.endDecode).fbEpoch = s.fbEpoch := rfl
@[simp] theorem State.endDecode_frameByte (s : State) : (s.endDecode).frameByte = s.frameByte := rfl

@[simp] theorem State.loadFrame_fb (s : State) (frame : List Byte) (n : Nat) : (s.loadFrame frame n).fb = s.fb.writeBytes 0 frame := rfl
@[simp] theorem State.loadFrame_flen (s : State) (frame : List Byte) (n : Nat) : (s.loadFrame frame n).flen = BitVec.ofNat 11 n := rfl
@[simp] theorem State.loadFrame_rpt (s : State) (frame : List Byte) (n : Nat) : (s.loadFrame frame n).rpt = s.rpt := rfl
@[simp] theorem State.loadFrame_toff (s : State) (frame : List Byte) (n : Nat) : (s.loadFrame frame n).toff = s.toff := rfl
@[simp] theorem State.loadFrame_tcpFit (s : State) (frame : List Byte) (n : Nat) : (s.loadFrame frame n).tcpFit = s.tcpFit := rfl
@[simp] theorem State.loadFrame_udpFit (s : State) (frame : List Byte) (n : Nat) : (s.loadFrame frame n).udpFit = s.udpFit := rfl
@[simp] theorem State.loadFrame_build (s : State) (frame : List Byte) (n : Nat) : (s.loadFrame frame n).build = s.build := rfl
@[simp] theorem State.loadFrame_todo (s : State) (frame : List Byte) (n : Nat) : (s.loadFrame frame n).todo = s.todo := rfl
@[simp] theorem State.loadFrame_inputs (s : State) (frame : List Byte) (n : Nat) : (s.loadFrame frame n).inputs = s.inputs := rfl
@[simp] theorem State.loadFrame_fbEpoch (s : State) (frame : List Byte) (n : Nat) : (s.loadFrame frame n).fbEpoch = s.fbEpoch := rfl

@[simp] theorem State.setInputs_fb (s : State) (es : List Event) : (s.setInputs es).fb = s.fb := rfl
@[simp] theorem State.setInputs_flen (s : State) (es : List Event) : (s.setInputs es).flen = s.flen := rfl
@[simp] theorem State.setInputs_rpt (s : State) (es : List Event) : (s.setInputs es).rpt = s.rpt := rfl
@[simp] theorem State.setInputs_toff (s : State) (es : List Event) : (s.setInputs es).toff = s.toff := rfl
@[simp] theorem State.setInputs_tcpFit (s : State) (es : List Event) : (s.setInputs es).tcpFit = s.tcpFit := rfl
@[simp] theorem State.setInputs_udpFit (s : State) (es : List Event) : (s.setInputs es).udpFit = s.udpFit := rfl
@[simp] theorem State.setInputs_build (s : State) (es : List Event) : (s.setInputs es).build = s.build := rfl
@[simp] theorem State.setInputs_todo (s : State) (es : List Event) : (s.setInputs es).todo = s.todo := rfl
@[simp] theorem State.setInputs_inputs (s : State) (es : List Event) : (s.setInputs es).inputs = es := rfl
@[simp] theorem State.setInputs_fbEpoch (s : State) (es : List Event) : (s.setInputs es).fbEpoch = s.fbEpoch := rfl
@[simp] theorem State.setInputs_frameByte (s : State) (es : List Event) : (s.setInputs es).frameByte = s.frameByte := rfl

@[simp] theorem State.complete_fb (s : State) (r : Report) : (s.complete r).fb = s.fb := rfl
@[simp] theorem State.complete_flen (s : State) (r : Report) : (s.complete r).flen = s.flen := rfl
@[simp] theorem State.complete_rpt (s : State) (r : Report) : (s.complete r).rpt = r.toRpt := rfl
@[simp] theorem State.complete_toff (s : State) (r : Report) : (s.complete r).toff = none := rfl
@[simp] theorem State.complete_tcpFit (s : State) (r : Report) : (s.complete r).tcpFit = none := rfl
@[simp] theorem State.complete_udpFit (s : State) (r : Report) : (s.complete r).udpFit = none := rfl
@[simp] theorem State.complete_build (s : State) (r : Report) : (s.complete r).build = s.build := rfl
@[simp] theorem State.complete_todo (s : State) (r : Report) : (s.complete r).todo = [] := rfl
@[simp] theorem State.complete_inputs (s : State) (r : Report) : (s.complete r).inputs = s.inputs := rfl
@[simp] theorem State.complete_fbEpoch (s : State) (r : Report) : (s.complete r).fbEpoch = s.fbEpoch := rfl
@[simp] theorem State.complete_frameByte (s : State) (r : Report) : (s.complete r).frameByte = s.frameByte := rfl

@[simp] theorem State.raise_fb (s : State) (f : Failure) : (s.raise f).fb = s.fb := rfl
@[simp] theorem State.raise_flen (s : State) (f : Failure) : (s.raise f).flen = s.flen := rfl
@[simp] theorem State.raise_rpt (s : State) (f : Failure) : (s.raise f).rpt = s.rpt.failWith f := rfl
@[simp] theorem State.raise_toff (s : State) (f : Failure) : (s.raise f).toff = none := rfl
@[simp] theorem State.raise_tcpFit (s : State) (f : Failure) : (s.raise f).tcpFit = none := rfl
@[simp] theorem State.raise_udpFit (s : State) (f : Failure) : (s.raise f).udpFit = none := rfl
@[simp] theorem State.raise_build (s : State) (f : Failure) : (s.raise f).build = s.build := rfl
@[simp] theorem State.raise_todo (s : State) (f : Failure) : (s.raise f).todo = [] := rfl
@[simp] theorem State.raise_inputs (s : State) (f : Failure) : (s.raise f).inputs = s.inputs := rfl
@[simp] theorem State.raise_fbEpoch (s : State) (f : Failure) : (s.raise f).fbEpoch = s.fbEpoch := rfl
@[simp] theorem State.raise_frameByte (s : State) (f : Failure) : (s.raise f).frameByte = s.frameByte := rfl

@[simp] theorem State.beginDecode_fb (s : State) : (s.beginDecode).fb = s.fb := rfl
@[simp] theorem State.beginDecode_flen (s : State) : (s.beginDecode).flen = s.flen := rfl
@[simp] theorem State.beginDecode_rpt (s : State) : (s.beginDecode).rpt = Rpt.empty := rfl
@[simp] theorem State.beginDecode_toff (s : State) : (s.beginDecode).toff = none := rfl
@[simp] theorem State.beginDecode_tcpFit (s : State) : (s.beginDecode).tcpFit = none := rfl
@[simp] theorem State.beginDecode_udpFit (s : State) : (s.beginDecode).udpFit = none := rfl
@[simp] theorem State.beginDecode_build (s : State) : (s.beginDecode).build = s.build := rfl
@[simp] theorem State.beginDecode_todo (s : State) : (s.beginDecode).todo = decodePlaces s.build := rfl
@[simp] theorem State.beginDecode_inputs (s : State) : (s.beginDecode).inputs = s.inputs := rfl
@[simp] theorem State.beginDecode_fbEpoch (s : State) : (s.beginDecode).fbEpoch = s.fbEpoch := rfl
@[simp] theorem State.beginDecode_frameByte (s : State) : (s.beginDecode).frameByte = s.frameByte := rfl

end Sys2Proof.Machine
end

