-- ==== Sys2Proof/Laws/Memory.lean ====
section
/-! SUPPORT. The frame buffer: reading after writing, and the canonical form kept by every operation (rule R11). -/

namespace Sys2Proof.Machine

@[simp] theorem Memory.read_nil (x : Nat) : Memory.read [] x = none := rfl

/-- A read gives the byte last written there, and a write leaves every other address alone. -/
theorem Memory.read_write (m : Memory) (x y : Nat) (v : Byte) :
    (m.write x v).read y = if y = x then some v else m.read y := by
  induction m with
  | nil => rfl
  | cons c rest ih =>
    obtain ⟨a, b⟩ := c
    simp only [Memory.write]
    split
    · rfl
    · split
      · subst x
        by_cases h : y = a <;> simp [Memory.read, h]
      · rename_i _ hne
        by_cases h : y = a
        · subst y
          simp [Memory.read, Ne.symm hne]
        · simp [Memory.read, h, ih]

theorem Memory.wfFrom_mono {m : Memory} {l l' : Nat} (hl : l' ≤ l) (h : Memory.wfFrom l m = true) :
    Memory.wfFrom l' m = true := by
  cases m with
  | nil => rfl
  | cons c rest =>
    simp only [Memory.wfFrom, Bool.and_eq_true, decide_eq_true_eq] at h ⊢
    exact ⟨⟨by omega, h.1.2⟩, h.2⟩

theorem Memory.wfFrom_write {m : Memory} {l x : Nat} (v : Byte) (hx : x < Config.maxf) (hl : l ≤ x)
    (h : Memory.wfFrom l m = true) : Memory.wfFrom l (m.write x v) = true := by
  induction m generalizing l with
  | nil => simp [Memory.write, Memory.wfFrom, hx, hl]
  | cons c rest ih =>
    simp only [Memory.wfFrom, Bool.and_eq_true, decide_eq_true_eq] at h
    simp only [Memory.write]
    split
    · simp only [Memory.wfFrom, Bool.and_eq_true, decide_eq_true_eq]
      exact ⟨⟨hl, hx⟩, ⟨by omega, h.1.2⟩, h.2⟩
    · split
      · simp only [Memory.wfFrom, Bool.and_eq_true, decide_eq_true_eq]
        exact h
      · simp only [Memory.wfFrom, Bool.and_eq_true, decide_eq_true_eq]
        exact ⟨h.1, ih (by omega) h.2⟩

/-- A write of a byte that exists keeps the canonical form. -/
theorem Memory.wf_write {m : Memory} {x : Nat} (v : Byte) (hx : x < Config.maxf) (h : m.wf = true) :
    (m.write x v).wf = true :=
  Memory.wfFrom_write v hx (Nat.zero_le x) h

/-- Writing a list of bytes that exist keeps the canonical form. -/
theorem Memory.wf_writeBytes {m : Memory} (bs : List Byte) (base : Nat) (hb : base + bs.length ≤ Config.maxf)
    (h : m.wf = true) : (m.writeBytes base bs).wf = true := by
  induction bs generalizing base with
  | nil => exact h
  | cons b bs ih =>
    simp only [List.length_cons] at hb
    exact Memory.wf_write b (by omega) (ih (base + 1) (by omega))

/-- Reading after a list of bytes was written from an address on: the bytes written, and below and beyond them what
was there before. -/
theorem Memory.read_writeBytes (m : Memory) (bs : List Byte) (base x : Nat) :
    (m.writeBytes base bs).read x =
      if h : base ≤ x ∧ x - base < bs.length then some (bs[x - base]'h.2) else m.read x := by
  induction bs generalizing base with
  | nil => simp [Memory.writeBytes]
  | cons b bs ih =>
    rw [Memory.writeBytes, Memory.read_write, ih (base + 1)]
    by_cases h : x = base
    · subst h
      simp
    · rw [if_neg h]
      by_cases hc : base ≤ x ∧ x - base < (b :: bs).length
      · have hl := hc.2
        simp only [List.length_cons] at hl
        rw [dif_pos hc, dif_pos ⟨by omega, by omega⟩]
        have e : x - base = x - (base + 1) + 1 := by omega
        simp only [e, List.getElem_cons_succ]
      · rw [dif_neg hc, dif_neg (by simp only [List.length_cons] at hc; omega)]

/-- After a hand-over the block reads the frame's own bytes. -/
theorem State.loadFrame_frameByte (s : State) (frame : List Byte) (n : Nat) {i : Nat} (h : i < frame.length) :
    (s.loadFrame frame n).frameByte i = frame[i] := by
  simp [State.frameByte, Memory.read_writeBytes, h]

/-- Beyond the frame's own bytes a hand-over leaves `FB` as last written. -/
theorem State.loadFrame_frameByte_of_le (s : State) (frame : List Byte) (n : Nat) {i : Nat}
    (h : frame.length ≤ i) : (s.loadFrame frame n).frameByte i = s.frameByte i := by
  simp [State.frameByte, Memory.read_writeBytes, Nat.not_lt.2 h]

/-- The memory after reset is in canonical form. -/
theorem State.reset_fb_wf : State.reset.fb.wf = true := rfl

end Sys2Proof.Machine
end

