-- ==== Sys2Proof/Laws/Ops.lean ====
section
/-! SUPPORT. What each shared operation can do, said once: operands, tests, raising a failure, completing a decode,
taking an arm, the hand-over of a frame. -/

namespace Sys2Proof.Machine

/-! ## Operands -/

/-- An operand's outcome is a next state only through the operand. -/
theorem withOperand_eq_next {α : Type} {x : Except Fault α} {k : α → Host.Outcome State Fault Refusal} {t : State} :
    withOperand x k = .next t ↔ ∃ v, x = .ok v ∧ k v = .next t := by
  cases x <;> simp [withOperand]

@[simp] theorem withOperand_ok {α : Type} (v : α) (k : α → Host.Outcome State Fault Refusal) :
    withOperand (.ok v) k = k v := rfl

@[simp] theorem withOperand_error {α : Type} (f : Fault) (k : α → Host.Outcome State Fault Refusal) :
    withOperand (.error f) k = .fault f := rfl

theorem andThen_eq_next {o : Host.Outcome State Fault Refusal} {k : State → Host.Outcome State Fault Refusal}
    {t : State} : andThen o k = .next t ↔ ∃ m, o = .next m ∧ k m = .next t := by
  cases o <;> simp [andThen]

@[simp] theorem andThen_next (s : State) (k : State → Host.Outcome State Fault Refusal) :
    andThen (.next s) k = k s := rfl

theorem read1_of_le {s : State} {a : Nat} (h : a + 1 ≤ s.flen.toNat) : s.read1 a = .ok (s.frameByte a) := by
  simp [State.read1, State.inFrame, h]

theorem read1_of_lt {s : State} {a : Nat} (h : s.flen.toNat < a + 1) : s.read1 a = .error .outsideFrame := by
  simp [State.read1, State.inFrame, Nat.not_le.2 h]

theorem read1_eq_ok {s : State} {a : Nat} {b : Byte} :
    s.read1 a = .ok b ↔ a + 1 ≤ s.flen.toNat ∧ b = s.frameByte a := by
  unfold State.read1 State.inFrame
  split
  · simp_all [eq_comm]
  · rename_i h
    exact ⟨nofun, fun hv => absurd (decide_eq_true hv.1) h⟩

theorem readBe16_of_le {s : State} {a : Nat} (h : a + 2 ≤ s.flen.toNat) :
    s.readBe16 a = .ok (be16 (s.frameByte a) (s.frameByte (a + 1))) := by
  simp [State.readBe16, State.inFrame, h]

theorem readBe16_of_lt {s : State} {a : Nat} (h : s.flen.toNat < a + 2) : s.readBe16 a = .error .outsideFrame := by
  simp [State.readBe16, State.inFrame, Nat.not_le.2 h]

theorem readBe16_eq_ok {s : State} {a : Nat} {v : BitVec 16} :
    s.readBe16 a = .ok v ↔ a + 2 ≤ s.flen.toNat ∧ v = be16 (s.frameByte a) (s.frameByte (a + 1)) := by
  unfold State.readBe16 State.inFrame
  split
  · simp_all [eq_comm]
  · rename_i h
    exact ⟨nofun, fun hv => absurd (decide_eq_true hv.1) h⟩

theorem read4_of_le {s : State} {a : Nat} (h : a + 4 ≤ s.flen.toNat) :
    s.read4 a = .ok ⟨s.frameByte a, s.frameByte (a + 1), s.frameByte (a + 2), s.frameByte (a + 3)⟩ := by
  simp [State.read4, State.inFrame, h]

theorem read4_of_lt {s : State} {a : Nat} (h : s.flen.toNat < a + 4) : s.read4 a = .error .outsideFrame := by
  simp [State.read4, State.inFrame, Nat.not_le.2 h]

theorem read4_eq_ok {s : State} {a : Nat} {v : Addr} :
    s.read4 a = .ok v ↔ a + 4 ≤ s.flen.toNat
      ∧ v = ⟨s.frameByte a, s.frameByte (a + 1), s.frameByte (a + 2), s.frameByte (a + 3)⟩ := by
  unfold State.read4 State.inFrame
  split
  · simp_all [eq_comm]
  · rename_i h
    exact ⟨nofun, fun hv => absurd (decide_eq_true hv.1) h⟩

theorem needIhl_of_none {s : State} (h : s.rpt.ihl = none) : s.needIhl = .error (.noValue .ihl) := by
  simp [State.needIhl, h]

theorem needIhl_eq_ok {s : State} {v : BitVec 4} : s.needIhl = .ok v ↔ s.rpt.ihl = some v := by
  unfold State.needIhl
  split <;> simp_all

theorem needProto_of_none {s : State} (h : s.rpt.proto = none) : s.needProto = .error (.noValue .proto) := by
  simp [State.needProto, h]

theorem needProto_eq_ok {s : State} {v : Byte} : s.needProto = .ok v ↔ s.rpt.proto = some v := by
  unfold State.needProto
  split <;> simp_all

theorem needToff_of_none {s : State} (h : s.toff = none) : s.needToff = .error .noOffset := by
  simp [State.needToff, h]

theorem needToff_eq_ok {s : State} {v : BitVec 6} : s.needToff = .ok v ↔ s.toff = some v := by
  unfold State.needToff
  split <;> simp_all

/-! ## Field assembly (rules R53, R90) -/

theorem be16_toNat (hi lo : Byte) : (be16 hi lo).toNat = hi.toNat * 256 + lo.toNat := by
  unfold be16
  rw [BitVec.toNat_append, ← Nat.shiftLeft_add_eq_or_of_lt lo.isLt, Nat.shiftLeft_eq]

theorem hiNibble_toNat (b : Byte) : (hiNibble b).toNat = b.toNat / 16 := by
  have h := b.isLt
  simp only [hiNibble, BitVec.extractLsb'_toNat, Nat.shiftRight_eq_div_pow]
  omega

theorem loNibble_toNat (b : Byte) : (loNibble b).toNat = b.toNat % 16 := by
  simp [loNibble, BitVec.extractLsb'_toNat]

theorem transportOffset_toNat (ihl : BitVec 4) : (transportOffset ihl).toNat = ihl.toNat * 4 := by
  have h := ihl.isLt
  simp only [transportOffset, Config.ihlUnit, BitVec.toNat_mul, BitVec.toNat_setWidth, BitVec.toNat_ofNat]
  omega

/-! ## Tests (rules R70 to R73, R92) -/

@[simp] theorem tooShortLength_iff (flen : Nat) : tooShortLength flen = true ↔ flen < 20 := by
  rw [tooShortLength, decide_eq_true_eq]
  rfl

@[simp] theorem tcpFits_iff (flen toff : Nat) : tcpFits flen toff = true ↔ toff + 20 ≤ flen := by
  rw [tcpFits, decide_eq_true_eq]
  rfl

@[simp] theorem udpFits_iff (flen toff : Nat) : udpFits flen toff = true ↔ toff + 8 ≤ flen := by
  rw [udpFits, decide_eq_true_eq]
  rfl

@[simp] theorem ihlBelowMin_iff (ihl : BitVec 4) : ihlBelowMin ihl = true ↔ ihl.toNat < 5 := by
  rw [ihlBelowMin, decide_eq_true_eq]
  rfl

/-! ## The flags the extractions set as groups (rules R86, R102) -/

@[simp] theorem Rpt.groupIpv_rv (r : Rpt) : r.groupIpv.rv = r.rv := rfl
@[simp] theorem Rpt.groupIpv_st (r : Rpt) : r.groupIpv.st = r.st := rfl
@[simp] theorem Rpt.groupIpv_ipv (r : Rpt) : r.groupIpv.ipv = if r.holdsIp then some true else r.ipv := rfl
@[simp] theorem Rpt.groupIpv_l4v (r : Rpt) : r.groupIpv.l4v = r.l4v := rfl
@[simp] theorem Rpt.groupIpv_l4k (r : Rpt) : r.groupIpv.l4k = r.l4k := rfl
@[simp] theorem Rpt.groupIpv_ver (r : Rpt) : r.groupIpv.ver = r.ver := rfl
@[simp] theorem Rpt.groupIpv_ihl (r : Rpt) : r.groupIpv.ihl = r.ihl := rfl
@[simp] theorem Rpt.groupIpv_totlen (r : Rpt) : r.groupIpv.totlen = r.totlen := rfl
@[simp] theorem Rpt.groupIpv_proto (r : Rpt) : r.groupIpv.proto = r.proto := rfl
@[simp] theorem Rpt.groupIpv_src (r : Rpt) : r.groupIpv.src = r.src := rfl
@[simp] theorem Rpt.groupIpv_dst (r : Rpt) : r.groupIpv.dst = r.dst := rfl
@[simp] theorem Rpt.groupIpv_sport (r : Rpt) : r.groupIpv.sport = r.sport := rfl
@[simp] theorem Rpt.groupIpv_dport (r : Rpt) : r.groupIpv.dport = r.dport := rfl

@[simp] theorem Rpt.groupL4v_rv (r : Rpt) : r.groupL4v.rv = r.rv := rfl
@[simp] theorem Rpt.groupL4v_st (r : Rpt) : r.groupL4v.st = r.st := rfl
@[simp] theorem Rpt.groupL4v_ipv (r : Rpt) : r.groupL4v.ipv = r.ipv := rfl
@[simp] theorem Rpt.groupL4v_l4v (r : Rpt) : r.groupL4v.l4v = if r.holdsPorts then some true else r.l4v := rfl
@[simp] theorem Rpt.groupL4v_l4k (r : Rpt) : r.groupL4v.l4k = r.l4k := rfl
@[simp] theorem Rpt.groupL4v_ver (r : Rpt) : r.groupL4v.ver = r.ver := rfl
@[simp] theorem Rpt.groupL4v_ihl (r : Rpt) : r.groupL4v.ihl = r.ihl := rfl
@[simp] theorem Rpt.groupL4v_totlen (r : Rpt) : r.groupL4v.totlen = r.totlen := rfl
@[simp] theorem Rpt.groupL4v_proto (r : Rpt) : r.groupL4v.proto = r.proto := rfl
@[simp] theorem Rpt.groupL4v_src (r : Rpt) : r.groupL4v.src = r.src := rfl
@[simp] theorem Rpt.groupL4v_dst (r : Rpt) : r.groupL4v.dst = r.dst := rfl
@[simp] theorem Rpt.groupL4v_sport (r : Rpt) : r.groupL4v.sport = r.sport := rfl
@[simp] theorem Rpt.groupL4v_dport (r : Rpt) : r.groupL4v.dport = r.dport := rfl

/-- The group of six is complete exactly when each of its registers holds a value. -/
theorem Rpt.holdsIp_iff (r : Rpt) : r.holdsIp = true ↔
    r.ver.isSome ∧ r.ihl.isSome ∧ r.totlen.isSome ∧ r.proto.isSome ∧ r.src.isSome ∧ r.dst.isSome := by
  simp [Rpt.holdsIp, Bool.and_eq_true, and_assoc]

/-- The pair is complete exactly when both ports hold values. -/
theorem Rpt.holdsPorts_iff (r : Rpt) : r.holdsPorts = true ↔ r.sport.isSome ∧ r.dport.isSome := by
  simp [Rpt.holdsPorts, Bool.and_eq_true]

/-! ## Failures and completion -/

/-- Raising `TooShort` completes the decode with the report `TooShort`. -/
theorem raise_tooShort (s : State) : s.raise .tooShort = s.complete .tooShort := rfl

/-- Raising `UnsupportedOrTruncated` once the six IP registers hold their values, and nothing else does, completes
the decode with the report of that class. -/
theorem raise_unsupported {s : State} {ip : IpFields} (h : s.rpt = Rpt.empty.withIp ip) :
    s.raise .unsupportedOrTruncated = s.complete (.unsupported ip) := by
  unfold State.raise State.complete
  rw [h]
  rfl

/-- A taken arm: with `TOFF` and its first four bytes inside the frame it holds both ports, the status and the flags,
and ends the decode. -/
theorem takeArm_of_le {s : State} {t : BitVec 6} (k : Transport) (ht : s.toff = some t)
    (h : t.toNat + 4 ≤ s.flen.toNat) :
    takeArm k s = .next (s.setRpt (Rpt.decodedAs { s.rpt with
      sport := some (be16 (s.frameByte t.toNat) (s.frameByte (t.toNat + 1)))
      dport := some (be16 (s.frameByte (t.toNat + 2)) (s.frameByte (t.toNat + 2 + 1))) } k)).endDecode := by
  have h1 : s.needToff = .ok t := needToff_eq_ok.2 ht
  have h2 : t.toNat + 2 ≤ s.flen.toNat := by omega
  have hx : execXsport s = .next (s.setRpt (Rpt.groupL4v { s.rpt with
      sport := some (be16 (s.frameByte t.toNat) (s.frameByte (t.toNat + 1))) })) := by
    simp [execXsport, h1, readBe16_of_le h2]
  unfold takeArm
  rw [hx, andThen_next]
  unfold execXdport
  rw [needToff_eq_ok.2 (by simpa using ht), withOperand_ok,
    readBe16_of_le (a := t.toNat + 2) (by simpa [Nat.add_assoc] using h)]
  rfl

/-- `DISPATCH.TCP` with both operands there: its test evaluated, the arm taken or the next row. -/
theorem execDispatchTcp_eq {s : State} {p : Byte} {t : BitVec 6} (hp : s.rpt.proto = some p) (ht : s.toff = some t) :
    execDispatchTcp s =
      if p = 6 ∧ t.toNat + 20 ≤ s.flen.toNat then takeArm .tcp (s.setTcpFit true)
      else .next ((s.setTcpFit (tcpFits s.flen.toNat t.toNat)).continueAt [.udpRow]) := by
  unfold execDispatchTcp execTcpfit
  rw [needProto_eq_ok.2 hp, needToff_eq_ok.2 ht, withOperand_ok, withOperand_ok, andThen_next]
  cases hf : tcpFits s.flen.toNat t.toNat
  · have : ¬ t.toNat + 20 ≤ s.flen.toNat := fun h => by simp [(tcpFits_iff _ _).2 h] at hf
    simp [this]
  · have : t.toNat + 20 ≤ s.flen.toNat := (tcpFits_iff _ _).1 hf
    simp [this, Config.protoTcp]

/-- `DISPATCH.UDP` with both operands there: its test evaluated, the arm taken or the next row. -/
theorem execDispatchUdp_eq {s : State} {p : Byte} {t : BitVec 6} (hp : s.rpt.proto = some p) (ht : s.toff = some t) :
    execDispatchUdp s =
      if p = 17 ∧ t.toNat + 8 ≤ s.flen.toNat then takeArm .udp (s.setUdpFit true)
      else .next ((s.setUdpFit (udpFits s.flen.toNat t.toNat)).continueAt [.elseRow]) := by
  unfold execDispatchUdp execUdpfit
  rw [needProto_eq_ok.2 hp, needToff_eq_ok.2 ht, withOperand_ok, withOperand_ok, andThen_next]
  cases hf : udpFits s.flen.toNat t.toNat
  · have : ¬ t.toNat + 8 ≤ s.flen.toNat := fun h => by simp [(udpFits_iff _ _).2 h] at hf
    simp [this]
  · have : t.toNat + 8 ≤ s.flen.toNat := (udpFits_iff _ _).1 hf
    simp [this, Config.protoUdp]

/-! ## The hand-over -/

/-- A hand-over answers what follows it when the block is free and the frame fits. -/
theorem handOver_ok {frame : List Byte} {n : Nat} {s : State} (k : State → Host.Outcome State Fault Refusal)
    (ht : s.todo = []) (hf : framePresentable frame n = true) :
    handOver frame n s k = k (s.loadFrame frame n) := by
  simp [handOver, ht, hf]

/-- A hand-over that answers a next state found the block free and the frame fitting. -/
theorem handOver_eq_next {frame : List Byte} {n : Nat} {s t : State} {k : State → Host.Outcome State Fault Refusal}
    (h : handOver frame n s k = .next t) :
    s.todo = [] ∧ framePresentable frame n = true ∧ k (s.loadFrame frame n) = .next t := by
  unfold handOver at h
  split at h
  · cases h
  · split at h
    · exact ⟨by simp_all, by assumption, h⟩
    · cases h

/-- A frame that can be presented fits the buffer, and its length the register. -/
theorem framePresentable_iff (frame : List Byte) (n : Nat) :
    framePresentable frame n = true ↔ frame.length ≤ 1500 ∧ n ≤ 1500 := by
  rw [framePresentable, Bool.and_eq_true, decide_eq_true_eq, decide_eq_true_eq]
  rfl

/-- The length register holds the length handed over. -/
theorem loadFrame_flen_toNat (s : State) (frame : List Byte) {n : Nat} (h : n ≤ 1500) :
    (s.loadFrame frame n).flen.toNat = n := by
  simp only [State.loadFrame_flen, BitVec.toNat_ofNat]
  omega

end Sys2Proof.Machine
end

