-- ==== Sys2Proof/Laws/Exec.lean ====
section
/-! SUPPORT. Said once: everything a micro-operation can do when it answers a next state. -/

namespace Sys2Proof.Machine

/-- `ExecResult s i t`: one of the ways in which micro-operation `i` can take `s` to `t`, with its condition. -/
inductive ExecResult (s : State) : Instr → State → Prop
  | decode : ExecResult s .decode (s.complete (decodeFrame s.build.ihlMinCheck s.frameByte s.flen.toNat))
  | guardFails : s.flen.toNat < 20 → ExecResult s .lenguard (s.raise .tooShort)
  | guardPasses : 20 ≤ s.flen.toNat → ExecResult s .lenguard (s.continueAt (placesAfterGuard s.build))
  | version : 1 ≤ s.flen.toNat →
      ExecResult s .xver (s.setRpt (Rpt.groupIpv { s.rpt with ver := some (ipFieldsOf s.frameByte).ver }))
  | headerLength : 1 ≤ s.flen.toNat →
      ExecResult s .xihl (s.setRpt (Rpt.groupIpv { s.rpt with ihl := some (ipFieldsOf s.frameByte).ihl }))
  | totalLength : 4 ≤ s.flen.toNat →
      ExecResult s .xtotlen (s.setRpt (Rpt.groupIpv { s.rpt with totlen := some (ipFieldsOf s.frameByte).totlen }))
  | protocol : 10 ≤ s.flen.toNat →
      ExecResult s .xproto (s.setRpt (Rpt.groupIpv { s.rpt with proto := some (ipFieldsOf s.frameByte).proto }))
  | source : 16 ≤ s.flen.toNat →
      ExecResult s .xsrc (s.setRpt (Rpt.groupIpv { s.rpt with src := some (ipFieldsOf s.frameByte).src }))
  | destination : 20 ≤ s.flen.toNat →
      ExecResult s .xdst (s.setRpt (Rpt.groupIpv { s.rpt with dst := some (ipFieldsOf s.frameByte).dst }))
  | offset (ihl : BitVec 4) : s.rpt.ihl = some ihl → ExecResult s .toffcalc (s.setToff (transportOffset ihl))
  | checkAbsent : s.build.ihlMinCheck = false → ExecResult s .ihlchk s
  | checkFails (ihl : BitVec 4) : s.build.ihlMinCheck = true → s.rpt.ihl = some ihl → ihl.toNat < 5 →
      ExecResult s .ihlchk (s.raise .unsupportedOrTruncated)
  | checkPasses (ihl : BitVec 4) : s.build.ihlMinCheck = true → s.rpt.ihl = some ihl → 5 ≤ ihl.toNat →
      ExecResult s .ihlchk (s.continueAt [.tcpRow])
  | tcpTest (t : BitVec 6) : s.toff = some t →
      ExecResult s .tcpfit (s.setTcpFit (tcpFits s.flen.toNat t.toNat))
  | udpTest (t : BitVec 6) : s.toff = some t →
      ExecResult s .udpfit (s.setUdpFit (udpFits s.flen.toNat t.toNat))
  | tcpTaken (t : BitVec 6) : s.rpt.proto = some 6 → s.toff = some t → t.toNat + 20 ≤ s.flen.toNat →
      ExecResult s .dispatchTcp (s.setRpt (Rpt.decodedAs { s.rpt with
        sport := some (sourcePortAt s.frameByte t.toNat), dport := some (destPortAt s.frameByte t.toNat) } .tcp)).endDecode
  | tcpFalls (p : Byte) (t : BitVec 6) : s.rpt.proto = some p → s.toff = some t →
      ¬ (p = 6 ∧ t.toNat + 20 ≤ s.flen.toNat) →
      ExecResult s .dispatchTcp ((s.setTcpFit (tcpFits s.flen.toNat t.toNat)).continueAt [.udpRow])
  | udpTaken (t : BitVec 6) : s.rpt.proto = some 17 → s.toff = some t → t.toNat + 8 ≤ s.flen.toNat →
      ExecResult s .dispatchUdp (s.setRpt (Rpt.decodedAs { s.rpt with
        sport := some (sourcePortAt s.frameByte t.toNat), dport := some (destPortAt s.frameByte t.toNat) } .udp)).endDecode
  | udpFalls (p : Byte) (t : BitVec 6) : s.rpt.proto = some p → s.toff = some t →
      ¬ (p = 17 ∧ t.toNat + 8 ≤ s.flen.toNat) →
      ExecResult s .dispatchUdp ((s.setUdpFit (udpFits s.flen.toNat t.toNat)).continueAt [.elseRow])
  | elseRaises : ExecResult s .dispatchElse (s.raise .unsupportedOrTruncated)
  | sourcePort (t : BitVec 6) : s.toff = some t → t.toNat + 2 ≤ s.flen.toNat →
      ExecResult s .xsport (s.setRpt (Rpt.groupL4v { s.rpt with sport := some (sourcePortAt s.frameByte t.toNat) }))
  | destinationPort (t : BitVec 6) : s.toff = some t → t.toNat + 4 ≤ s.flen.toNat →
      ExecResult s .xdport (s.setRpt (Rpt.groupL4v { s.rpt with dport := some (destPortAt s.frameByte t.toNat) }))

/-- An operation over one operand answers a next state only through the operand. -/
theorem eq_of_withOperand_next {α : Type} {x : Except Fault α} {f : α → State} {t : State}
    (h : withOperand x (fun v => .next (f v)) = .next t) : ∃ v, x = .ok v ∧ t = f v := by
  obtain ⟨v, hx, h⟩ := withOperand_eq_next.1 h
  injection h with h
  exact ⟨v, hx, h.symm⟩

/-- INVERSION of `exec`: a next state comes about in one of the ways of `ExecResult`. -/
theorem exec_cases {i : Instr} {s t : State} (h : exec i s = .next t) : ExecResult s i t := by
  cases i <;> simp only [exec] at h
  case decode =>
    injection h with h
    subst h
    exact .decode
  case lenguard =>
    unfold execLenguard at h
    split at h <;> injection h with h <;> subst h
    · exact .guardFails (by simp_all)
    · exact .guardPasses (by simp_all)
  case xver =>
    obtain ⟨v, hv, rfl⟩ := eq_of_withOperand_next h
    obtain ⟨hl, rfl⟩ := read1_eq_ok.1 hv
    exact .version hl
  case xihl =>
    obtain ⟨v, hv, rfl⟩ := eq_of_withOperand_next h
    obtain ⟨hl, rfl⟩ := read1_eq_ok.1 hv
    exact .headerLength hl
  case xtotlen =>
    obtain ⟨v, hv, rfl⟩ := eq_of_withOperand_next h
    obtain ⟨hl, rfl⟩ := readBe16_eq_ok.1 hv
    exact .totalLength hl
  case xproto =>
    obtain ⟨v, hv, rfl⟩ := eq_of_withOperand_next h
    obtain ⟨hl, rfl⟩ := read1_eq_ok.1 hv
    exact .protocol hl
  case xsrc =>
    obtain ⟨v, hv, rfl⟩ := eq_of_withOperand_next h
    obtain ⟨hl, rfl⟩ := read4_eq_ok.1 hv
    exact .source hl
  case xdst =>
    obtain ⟨v, hv, rfl⟩ := eq_of_withOperand_next h
    obtain ⟨hl, rfl⟩ := read4_eq_ok.1 hv
    exact .destination hl
  case toffcalc =>
    obtain ⟨v, hv, rfl⟩ := eq_of_withOperand_next h
    exact .offset v (needIhl_eq_ok.1 hv)
  case ihlchk =>
    unfold execIhlchk at h
    split at h
    · rename_i hb
      obtain ⟨v, hv, h⟩ := withOperand_eq_next.1 h
      split at h <;> injection h with h <;> subst h
      · exact .checkFails v hb (needIhl_eq_ok.1 hv) (by simp_all)
      · exact .checkPasses v hb (needIhl_eq_ok.1 hv) (by simp_all)
    · injection h with h
      subst h
      exact .checkAbsent (by simp_all)
  case tcpfit =>
    obtain ⟨v, hv, rfl⟩ := eq_of_withOperand_next h
    exact .tcpTest v (needToff_eq_ok.1 hv)
  case udpfit =>
    obtain ⟨v, hv, rfl⟩ := eq_of_withOperand_next h
    exact .udpTest v (needToff_eq_ok.1 hv)
  case dispatchTcp =>
    obtain ⟨p, hp, h'⟩ := withOperand_eq_next.1 h
    obtain ⟨m, hm, -⟩ := andThen_eq_next.1 h'
    obtain ⟨t, ht, -⟩ := eq_of_withOperand_next hm
    have hp := needProto_eq_ok.1 hp
    have ht := needToff_eq_ok.1 ht
    rw [execDispatchTcp_eq hp ht] at h
    split at h
    · rename_i hc
      rw [takeArm_of_le (t := t) _ (by simpa using ht) (by simp; omega)] at h
      injection h with h
      subst h
      exact .tcpTaken t (by rw [hp, hc.1]) ht hc.2
    · injection h with h
      subst h
      exact .tcpFalls p t hp ht (by assumption)
  case dispatchUdp =>
    obtain ⟨p, hp, h'⟩ := withOperand_eq_next.1 h
    obtain ⟨m, hm, -⟩ := andThen_eq_next.1 h'
    obtain ⟨t, ht, -⟩ := eq_of_withOperand_next hm
    have hp := needProto_eq_ok.1 hp
    have ht := needToff_eq_ok.1 ht
    rw [execDispatchUdp_eq hp ht] at h
    split at h
    · rename_i hc
      rw [takeArm_of_le (t := t) _ (by simpa using ht) (by simp; omega)] at h
      injection h with h
      subst h
      exact .udpTaken t (by rw [hp, hc.1]) ht hc.2
    · injection h with h
      subst h
      exact .udpFalls p t hp ht (by assumption)
  case dispatchElse =>
    injection h with h
    subst h
    exact .elseRaises
  case xsport =>
    obtain ⟨t, ht, h⟩ := withOperand_eq_next.1 h
    obtain ⟨v, hv, rfl⟩ := eq_of_withOperand_next h
    obtain ⟨hl, rfl⟩ := readBe16_eq_ok.1 hv
    exact .sourcePort t (needToff_eq_ok.1 ht) hl
  case xdport =>
    obtain ⟨t, ht, h⟩ := withOperand_eq_next.1 h
    obtain ⟨v, hv, rfl⟩ := eq_of_withOperand_next h
    obtain ⟨hl, rfl⟩ := readBe16_eq_ok.1 hv
    exact .destinationPort t (needToff_eq_ok.1 ht) hl

end Sys2Proof.Machine
end

