-- ==== Sys2Proof/Laws/Decode.lean ====
section
/-! SUPPORT. The decode function, the hand-over and runs of several steps, in the terms the claims use. -/

namespace Sys2Proof.Machine

/-- The six fields, as numbers and verbatim bytes. -/
theorem ipFieldsOf_read (F : Nat → Byte) : IpReadFrom (ipFieldsOf F) F :=
  ⟨hiNibble_toNat _, loNibble_toNat _, be16_toNat _ _, rfl, rfl, rfl⟩

/-- The two ports, as numbers. -/
theorem portsOf_read (F : Nat → Byte) (t : Nat) : PortsReadFrom F t (sourcePortAt F t) (destPortAt F t) :=
  ⟨be16_toNat _ _, be16_toNat _ _⟩

/-- Below 20 bytes nothing of the frame matters (rule R121). -/
theorem decodeFrame_of_lt (chk : Bool) (F : Nat → Byte) {n : Nat} (h : n < 20) : decodeFrame chk F n = .tooShort := by
  simp [decodeFrame, (tooShortLength_iff n).2 h]

/-- From 20 bytes on the decode is the optional test and the dispatch (rule R110). -/
theorem decodeFrame_of_le (chk : Bool) (F : Nat → Byte) {n : Nat} (h : 20 ≤ n) :
    decodeFrame chk F n =
      if chk = true ∧ (ipFieldsOf F).ihl.toNat < 5 then .unsupported (ipFieldsOf F)
      else dispatchReport F n (ipFieldsOf F) := by
  have hs : tooShortLength n = false := by
    rw [Bool.eq_false_iff, Ne, tooShortLength_iff]
    omega
  simp [decodeFrame, hs]

/-- The dispatch over numbers (rule R91). -/
theorem dispatchReport_eq (F : Nat → Byte) (n : Nat) (ip : IpFields) :
    dispatchReport F n ip =
      if ip.proto = 6 ∧ ip.ihl.toNat * 4 + 20 ≤ n then
        .tcp ip (sourcePortAt F (ip.ihl.toNat * 4)) (destPortAt F (ip.ihl.toNat * 4))
      else if ip.proto = 17 ∧ ip.ihl.toNat * 4 + 8 ≤ n then
        .udp ip (sourcePortAt F (ip.ihl.toNat * 4)) (destPortAt F (ip.ihl.toNat * 4))
      else .unsupported ip := by
  unfold dispatchReport
  simp only [transportOffset_toNat, Bool.and_eq_true, beq_iff_eq, tcpFits_iff, udpFits_iff]
  rfl

/-- The transport of a decoded report is the one its protocol names (rule R15). -/
theorem decodeFrame_consistent (chk : Bool) (F : Nat → Byte) (n : Nat) : (decodeFrame chk F n).Consistent := by
  by_cases h : n < 20
  · rw [decodeFrame_of_lt _ _ h]
    trivial
  · rw [decodeFrame_of_le _ _ (by omega), dispatchReport_eq]
    split
    · trivial
    · split
      · rename_i hc
        exact hc.1
      · split
        · rename_i hc
          exact hc.1
        · trivial

/-- The step of a present that is allowed (rule R136). -/
theorem step_present {s : State} {frame : List Byte} {n : Nat} {es : List Event}
    (h : s.inputs = .present frame n :: es) (ht : s.todo = []) (hf : frame.length ≤ 1500) (hn : n ≤ 1500) :
    step s = .next (((s.setInputs es).loadFrame frame n).complete
      (decodeFrame s.build.ihlMinCheck ((s.setInputs es).loadFrame frame n).frameByte n)) := by
  simp only [step, nextMove, h, handleEvent, presentEvent]
  rw [handOver_ok _ (by simpa using ht) ((framePresentable_iff _ _).2 ⟨hf, hn⟩)]
  simp only [exec, execDecode, loadFrame_flen_toNat _ _ hn, State.loadFrame_build, State.setInputs_build]

/-- The step of a start that is allowed. -/
theorem step_start {s : State} {frame : List Byte} {n : Nat} {es : List Event}
    (h : s.inputs = .start frame n :: es) (ht : s.todo = []) (hf : frame.length ≤ 1500) (hn : n ≤ 1500) :
    step s = .next ((s.setInputs es).loadFrame frame n).beginDecode := by
  simp only [step, nextMove, h, handleEvent, startEvent]
  rw [handOver_ok _ (by simpa using ht) ((framePresentable_iff _ _).2 ⟨hf, hn⟩)]

/-- The block's own step at a place. -/
theorem blockMoves_at {s : State} {p : Place} {rest : List Place} {i : Instr} (ht : s.todo = p :: rest)
    (hi : decodeAt p s.rpt.proto = .ok i) : blockMoves s = exec i (s.continueAt rest) := by
  simp [blockMoves, ht, fetchAt, hi]

/-- With no input the step is the block's own. -/
theorem step_of_no_input {s : State} (h : s.inputs = []) : step s = blockMoves s := by
  simp only [step, nextMove, h]

/-- A run whose first step is known. -/
theorem runSteps_of_step {n : Nat} {s t : State} (h : step s = .next t) : runSteps (n + 1) s = runSteps n t := by
  rw [runSteps, h]

/-- A run that reaches a state goes on from that state. -/
theorem runSteps_add {m n : Nat} {s t : State} (h : runSteps m s = .next t) : runSteps (m + n) s = runSteps n t := by
  induction m generalizing s with
  | zero =>
    rw [runSteps] at h
    injection h with h
    rw [h, Nat.zero_add]
  | succ m ih =>
    rw [Nat.succ_add]
    rw [runSteps] at h ⊢
    cases hs : step s with
    | next u =>
      rw [hs] at h
      exact ih h
    | fault f =>
      rw [hs] at h
      cases h
    | refused r =>
      rw [hs] at h
      cases h

/-- Eight places done: the six IP values, `IPV` set by their group, and nothing else. -/
theorem partialRpt_eight (ip : IpFields) : partialRpt ip 8 = Rpt.empty.withIp ip := rfl

end Sys2Proof.Machine
end

