-- ==== Sys2Proof/Laws/PerInstr.lean ====
section
/-! SUPPORT. Statements about every micro-operation as syntax, one lemma per constructor. -/

namespace Sys2Proof.Laws.Encoding

/-- At its place, the bits the encoder gives a micro-operation select that micro-operation (rules R54, R62). -/
def Statement (i : Instr) : Prop := decodeAt (placeOf i) (encode i).head? = .ok i

theorem decode : Statement .decode := rfl
theorem lenguard : Statement .lenguard := rfl
theorem xver : Statement .xver := rfl
theorem xihl : Statement .xihl := rfl
theorem xtotlen : Statement .xtotlen := rfl
theorem xproto : Statement .xproto := rfl
theorem xsrc : Statement .xsrc := rfl
theorem xdst : Statement .xdst := rfl
theorem toffcalc : Statement .toffcalc := rfl
theorem ihlchk : Statement .ihlchk := rfl
theorem tcpfit : Statement .tcpfit := rfl
theorem udpfit : Statement .udpfit := rfl
theorem dispatchTcp : Statement .dispatchTcp := rfl
theorem dispatchUdp : Statement .dispatchUdp := rfl
theorem dispatchElse : Statement .dispatchElse := rfl
theorem xsport : Statement .xsport := rfl
theorem xdport : Statement .xdport := rfl

end Sys2Proof.Laws.Encoding
end

