-- ==== Sys2Proof/Tests/Slice0.lean ====
section
/-! SUPPORT. The model's own tests: ill-formed terms refused, words written out from the spec's encodings, the spec's test
vectors (spec/95_test_vectors.md) one step each, and a witness for the hypotheses of every statement. -/

namespace Sys2Proof.Tests

open Sys2Proof Sys2Proof.Machine

/-! ## Helpers -/

/-- The next state of an outcome. -/
def nextOf : Host.Outcome State Fault Refusal → Option State
  | .next s => some s
  | .fault _ => none
  | .refused _ => none

/-- The fault of an outcome. -/
def faultOf : Host.Outcome State Fault Refusal → Option Fault
  | .next _ => none
  | .fault f => some f
  | .refused _ => none

/-- The refusal of an outcome. -/
def refusalOf : Host.Outcome State Fault Refusal → Option Refusal
  | .next _ => none
  | .fault _ => none
  | .refused r => some r

/-- A state with a frame in `FB` and its length in `FLEN`, nothing else done yet. -/
def loaded (chk : Bool) (frame : List Byte) : State :=
  { State.reset.loadFrame frame frame.length with build := { ihlMinCheck := chk } }

/-- A state whose next step presents the frame. -/
def presenting (chk : Bool) (frame : List Byte) : State :=
  { State.reset with build := { ihlMinCheck := chk }, inputs := [.present frame frame.length] }

/-- The text of the report the presented frame gets (rule R60). -/
def reportText (chk : Bool) (frame : List Byte) : Option (List Char) :=
  (nextOf (step (presenting chk frame))).map fun s => rptText s.rpt

/-- A state that has begun to decode a frame one micro-operation a step. -/
def begun (chk : Bool) (frame : List Byte) : State := (loaded chk frame).beginDecode

/-- A state that has passed its first `done` places. -/
def atPlace (chk : Bool) (frame : List Byte) (done : Nat) : State :=
  let s := loaded chk frame
  { s with
    rpt := partialRpt (ipFieldsOf s.frameByte) done
    toff := if 8 ≤ done then some (transportOffset (ipFieldsOf s.frameByte).ihl) else none
    todo := (decodePlaces s.build).drop done }

/-- The first 20 bytes of frame E1. -/
def headerE1 : List Byte := [0x45, 0, 0, 0x28, 0, 0, 0, 0, 0x40, 6, 0, 0, 0x0A, 0, 0, 1, 0x0A, 0, 0, 2]

/-- Frame E1, 40 bytes. -/
def frameE1 : List Byte := headerE1 ++ [0x01, 0xBB, 0xC7, 0x38] ++ List.replicate 16 0

/-- Frame V9, 28 bytes, UDP. -/
def frameV9 : List Byte :=
  [0x45, 0, 0, 0x1C, 0, 0, 0, 0, 0x40, 0x11, 0, 0, 0xC0, 0xA8, 1, 0x0A, 8, 8, 8, 8]
    ++ [0xD4, 0x31, 0, 0x35, 0, 8, 0, 0]

/-- Frame V20, 20 bytes, `IHL` 0. -/
def frameV20 : List Byte := [0x40, 0x12, 0, 0x14, 0, 0, 0, 0, 0x40, 6, 0, 0, 1, 2, 3, 4, 5, 6, 7, 8]

/-- Frame V17, 32 bytes, `IHL` 6. -/
def frameV17 : List Byte :=
  [0x46, 0, 0, 0x20, 0, 0, 0, 0, 0x40, 0x11, 0, 0, 0xAC, 0x10, 0, 5, 0xAC, 0x10, 0, 9]
    ++ [0x94, 4, 0, 0, 0x13, 0x88, 0x13, 0x89, 0, 8, 0, 0]

/-- A frame whose first byte is given: `IHL` is its low nibble. -/
def frameOf (b0 proto : Byte) (n : Nat) : List Byte := ((List.replicate n (0 : Byte)).set 0 b0).set 9 proto

/-! ## Ill-formed terms are refused -/

/-- R92: without the parameter the micro-operation `IHLCHK` does not exist; with it, it does. -/
theorem test_wf_ihlchk : Instr.wellFormed { ihlMinCheck := false } .ihlchk = false
    ∧ Instr.wellFormed { ihlMinCheck := true } .ihlchk = true := by decide

/-- R42: a frame of 1501 bytes, and a length of 1501, cannot be presented. -/
theorem test_wf_frame : framePresentable (List.replicate 1501 0) 40 = false
    ∧ framePresentable frameE1 1501 = false ∧ framePresentable frameE1 1500 = true := by
  refine ⟨?_, by decide, by decide⟩
  rw [framePresentable, List.length_replicate]
  decide

/-- R11, R42: the events that name what does not exist. -/
theorem test_wf_event : Event.wellFormed (.present frameE1 1501) = false
    ∧ Event.wellFormed (.start frameE1 1501) = false ∧ Event.wellFormed (.write 1500 0) = false
    ∧ Event.wellFormed (.setFlen 1501) = false ∧ Event.wellFormed (.write 1499 0) = true := by decide

/-- R42, V11: a present with `FLEN` = 1501 is refused. -/
theorem test_present_too_long :
    refusalOf (step { State.reset with inputs := [.present frameE1 1501] }) = some .frameTooLong := by decide

/-! ## Decoding of words written out from the spec -/

/-- R54: the three rows of the dispatch map by the protocol byte: 6, 17, and ICMP's 1. -/
theorem test_decode_dispatch : decodeTableWord 8 0b00000110 = some .dispatchTcp
    ∧ decodeTableWord 8 0b00010001 = some .dispatchUdp ∧ decodeTableWord 8 0b00000001 = some .dispatchElse := by decide

/-- R62: a row that fell through leaves the later rows only. -/
theorem test_decode_later_rows : decodeAt .udpRow (some 6) = .ok .dispatchElse
    ∧ decodeAt .elseRow (some 17) = .ok .dispatchElse ∧ decodeAt .tcpRow none = .error .noSelector :=
  ⟨rfl, rfl, rfl⟩

/-- R51: the 160-bit header of frame E1 is a whole frame's; R52: its 32 bits of ports are format `L4P`. -/
theorem test_decode_words : decodeTableWord 160 0x4500002800000000400600000A0000010A000002 = some .decode
    ∧ decodeTableWord 32 0x01BBC738 = some .xsport := by decide

/-- R62: the rows that no bit selects are told by their place. -/
theorem test_decode_places : decodeAt .whole none = .ok .decode ∧ decodeAt .guard none = .ok .lenguard
    ∧ decodeAt .version none = .ok .xver ∧ decodeAt .headerLength none = .ok .xihl
    ∧ decodeAt .totalLength none = .ok .xtotlen ∧ decodeAt .protocol none = .ok .xproto
    ∧ decodeAt .source none = .ok .xsrc ∧ decodeAt .destination none = .ok .xdst
    ∧ decodeAt .offset none = .ok .toffcalc ∧ decodeAt .ihlCheck none = .ok .ihlchk
    ∧ decodeAt .tcpTest none = .ok .tcpfit ∧ decodeAt .udpTest none = .ok .udpfit
    ∧ decodeAt .sourcePort none = .ok .xsport ∧ decodeAt .destinationPort none = .ok .xdport :=
  ⟨rfl, rfl, rfl, rfl, rfl, rfl, rfl, rfl, rfl, rfl, rfl, rfl, rfl, rfl⟩

/-- No format has two bytes. -/
theorem test_decode_reject : decode [0x45, 0x00] = .error (.noFormat 2) := rfl

/-- R51, bit by bit: version 0100, IHL 0101, total length 40, protocol 6. -/
theorem test_iph_fields : ipFieldsOf (listByte headerE1) = ⟨4, 5, 40, 6, ⟨10, 0, 0, 1⟩, ⟨10, 0, 0, 2⟩⟩ := by decide

/-- R51: the encoder puts the same fields back into the bytes of E1. -/
theorem test_encode_iph : encodeIph ⟨4, 5, 40, 6, ⟨10, 0, 0, 1⟩, ⟨10, 0, 0, 2⟩⟩ ⟨0, 0, 0, 0, 0, 0x40, 0, 0⟩
    = headerE1 := by decide

/-- R52: 443 and 51000 as four bytes. -/
theorem test_encode_ports : encodePorts 443 51000 = [0x01, 0xBB, 0xC7, 0x38] := by decide

/-- The words of the host's probe: each runs in the very next step (assumption 6). -/
theorem test_fetch_word :
    ((nextOf (step (State.reset.withFetchWord 8 0x06))).map fun s => s.rpt.l4k) = some (some .tcp)
    ∧ ((nextOf (step (State.reset.withFetchWord 8 0x11))).map fun s => s.rpt.l4k) = some (some .udp)
    ∧ ((nextOf (step (State.reset.withFetchWord 8 0x01))).map fun s => s.rpt.st) = some (some .unsupportedOrTruncated)
    ∧ ((nextOf (step (State.reset.withFetchWord 32 0x01BBC738))).map fun s => s.rpt.sport) = some (some 443)
    ∧ ((nextOf (step (State.reset.withFetchWord 160 0x4500002800000000400600000A0000010A000002))).map
        fun s => s.rpt.totlen) = some (some 40) := by decide

/-! ## The spec's vectors, one step each -/

/-- E1. -/
theorem test_decode_e1 : reportText false frameE1 =
    some "ST=DECODED VER=4 IHL=5 TOTLEN=40 PROTO=6 SRC=10.0.0.1 DST=10.0.0.2 L4K=TCP SPORT=443 DPORT=51000".toList := by
  decide

/-- V15: the bytes no rule reads do not matter. -/
theorem test_decode_v15 : reportText false
    ([0x45, 0xFF, 0, 0x28, 0xDE, 0xAD, 0xBE, 0xEF, 1, 6, 0x12, 0x34, 0x0A, 0, 0, 1, 0x0A, 0, 0, 2]
      ++ [1, 0xBB, 0xC7, 0x38] ++ List.replicate 16 0x1F) = reportText false frameE1 := by decide

/-- V2: one byte short of the guard. -/
theorem test_lenguard_v2 : reportText false (headerE1.take 19) = some "ST=TOO_SHORT".toList := by decide

/-- V4: exactly 20 bytes pass the guard. -/
theorem test_lenguard_v4 : reportText false (List.replicate 20 0) =
    some "ST=UNSUPPORTED_OR_TRUNCATED VER=0 IHL=0 TOTLEN=0 PROTO=0 SRC=0.0.0.0 DST=0.0.0.0".toList := by decide

/-- R80's example: 0x65 gives version 6. -/
theorem test_xver : ((nextOf (exec .xver (loaded false [0x65]))).map fun s => s.rpt.ver) = some (some 6) := by decide

/-- R81's example: 0x4F gives `IHL` 15, not multiplied. -/
theorem test_xihl : ((nextOf (exec .xihl (loaded false [0x4F]))).map fun s => s.rpt.ihl) = some (some 15) := by decide

/-- R82's example: 05 DC gives 1500. -/
theorem test_xtotlen : ((nextOf (exec .xtotlen (loaded false [0, 0, 5, 0xDC]))).map fun s => s.rpt.totlen)
    = some (some 1500) := by decide

/-- R83's example. -/
theorem test_xproto : ((nextOf (exec .xproto (loaded false frameV9))).map fun s => s.rpt.proto) = some (some 17) := by
  decide

/-- R84's example: the value as a number is 0x0A000001. -/
theorem test_xsrc : ((nextOf (exec .xsrc (loaded false frameE1))).map fun s => s.rpt.value .src)
    = some (some 0x0A000001) := by decide

/-- R85's example, in a frame of exactly 20 bytes. -/
theorem test_xdst : ((nextOf (exec .xdst (loaded false headerE1))).map fun s => s.rpt.value .dst)
    = some (some 0x0A000002) := by decide

/-- R90's example: `IHL` 6 gives 24; the largest is 60. -/
theorem test_toffcalc :
    ((nextOf (exec .toffcalc ((loaded false []).setRpt { Rpt.empty with ihl := some 6 }))).map fun s => s.toff)
      = some (some 24)
    ∧ ((nextOf (exec .toffcalc ((loaded false []).setRpt { Rpt.empty with ihl := some 15 }))).map fun s => s.toff)
      = some (some 60) := by decide

/-- R92's example, V20: with the test, `IHL` 0 is rejected. -/
theorem test_ihlchk_v20 : reportText true frameV20 =
    some "ST=UNSUPPORTED_OR_TRUNCATED VER=4 IHL=0 TOTLEN=20 PROTO=6 SRC=1.2.3.4 DST=5.6.7.8".toList := by decide

/-- R92: `IHL` 5 passes, and the dispatch is next. -/
theorem test_ihlchk_passes : ((nextOf (exec .ihlchk (atPlace true frameE1 8))).map fun s => s.todo)
    = some [.tcpRow] := by decide

/-- R71's examples: 40 against 20 holds, 39 does not. -/
theorem test_tcpfit :
    ((nextOf (exec .tcpfit (atPlace false frameE1 8))).map fun s => s.tcpFit) = some (some true)
    ∧ ((nextOf (exec .tcpfit (atPlace false (frameE1.take 39) 8))).map fun s => s.tcpFit) = some (some false) := by decide

/-- V8: the comparison does not wrap when `TOFF` is beyond the frame. -/
theorem test_tcpfit_v8 : reportText false
    [0x4F, 0, 0, 0x14, 0, 0, 0, 0, 0x40, 6, 0, 0, 1, 2, 3, 4, 5, 6, 7, 8] =
    some "ST=UNSUPPORTED_OR_TRUNCATED VER=4 IHL=15 TOTLEN=20 PROTO=6 SRC=1.2.3.4 DST=5.6.7.8".toList := by decide

/-- R72's examples: 28 against 20 holds, 27 does not. -/
theorem test_udpfit :
    ((nextOf (exec .udpfit (atPlace false frameV9 8))).map fun s => s.udpFit) = some (some true)
    ∧ ((nextOf (exec .udpfit (atPlace false (frameV9.take 27) 8))).map fun s => s.udpFit) = some (some false) := by decide

/-- V19 (with E1's total length): a TCP frame too short for TCP is not retried as UDP. -/
theorem test_dispatch_tcp_v19 : reportText false (frameE1.take 28) =
    some "ST=UNSUPPORTED_OR_TRUNCATED VER=4 IHL=5 TOTLEN=40 PROTO=6 SRC=10.0.0.1 DST=10.0.0.2".toList := by decide

/-- R54: the TCP row with the UDP protocol falls through to the UDP row. -/
theorem test_dispatch_tcp_falls : ((nextOf (exec .dispatchTcp (atPlace false frameV9 8))).map fun s => s.todo)
    = some [.udpRow] := by decide

/-- V9: UDP with an exact fit. -/
theorem test_dispatch_udp_v9 : reportText false frameV9 =
    some "ST=DECODED VER=4 IHL=5 TOTLEN=28 PROTO=17 SRC=192.168.1.10 DST=8.8.8.8 L4K=UDP SPORT=54321 DPORT=53".toList := by
  decide

/-- V17: with `IHL` 6 the ports are at offset 24. -/
theorem test_dispatch_udp_v17 : reportText false frameV17 =
    some "ST=DECODED VER=4 IHL=6 TOTLEN=32 PROTO=17 SRC=172.16.0.5 DST=172.16.0.9 L4K=UDP SPORT=5000 DPORT=5001".toList := by
  decide

/-- V10: one byte fewer than UDP needs. -/
theorem test_dispatch_else_v10 : reportText false (frameV9.take 27) =
    some "ST=UNSUPPORTED_OR_TRUNCATED VER=4 IHL=5 TOTLEN=28 PROTO=17 SRC=192.168.1.10 DST=8.8.8.8".toList := by decide

/-- V20: with `IHL` 0 the ports lie on the first four bytes. -/
theorem test_xsport_v20 : reportText false frameV20 =
    some "ST=DECODED VER=4 IHL=0 TOTLEN=20 PROTO=6 SRC=1.2.3.4 DST=5.6.7.8 L4K=TCP SPORT=16402 DPORT=20".toList := by
  decide

/-- R100's example. -/
theorem test_xsport : ((nextOf (exec .xsport (atPlace false frameE1 8))).map fun s => s.rpt.sport) = some (some 443) := by
  decide

/-- R101's example. -/
theorem test_xdport : ((nextOf (exec .xdport (atPlace false frameE1 8))).map fun s => s.rpt.dport) = some (some 51000) := by
  decide

/-- R86: the extraction that completes the group of six sets `IPV`; one that does not leaves it. -/
theorem test_group_ipv :
    ((nextOf (exec .xdst (atPlace false frameE1 6))).map fun s => s.rpt.ipv) = some (some true)
    ∧ ((nextOf (exec .xsrc (atPlace false frameE1 5))).map fun s => s.rpt.ipv) = some none := by decide

/-- R102: the second of the two ports sets `L4V`, the first does not. -/
theorem test_group_l4v :
    ((nextOf (exec .xdport ((atPlace false frameE1 8).setRpt { Rpt.empty with sport := some 443 }))).map
      fun s => s.rpt.l4v) = some (some true)
    ∧ ((nextOf (exec .xsport (atPlace false frameE1 8))).map fun s => s.rpt.l4v) = some none := by decide

/-- V24: a reset leaves no report, and abandons a decode in progress (R151). -/
theorem test_reset_v24 :
    ((nextOf (step { (loaded false frameE1).complete (.unsupported (ipFieldsOf (listByte frameE1))) with
      inputs := [.reset] })).map fun s => s.rpt) = some Rpt.empty
    ∧ ((nextOf (step { begun false frameE1 with inputs := [.reset] })).map fun s => (s.rpt, s.todo))
      = some (Rpt.empty, []) := by decide

/-- R155: a present whose stated length exceeds the bytes handed over decodes what was last written there, here E1's own
port bytes and the rest. -/
theorem test_residue_r155 :
    ((nextOf (step { loaded false frameE1 with inputs := [.present headerE1 40] })).map fun s => rptText s.rpt)
      = reportText false frameE1 := by decide

/-- R60's example of a frame's text. -/
theorem test_frame_text : frameText [0x45, 0, 0, 0x28] = "len=4: 45 00 00 28".toList := by decide

/-- The codes of R14 and R15. -/
theorem test_codes : Status.code .decoded = 0 ∧ Status.code .tooShort = 1 ∧ Status.code .unsupportedOrTruncated = 2
    ∧ Status.ofCode 3 = none ∧ Transport.bit .tcp = 0 ∧ Transport.bit .udp = 1 := by decide

/-! ## Witnesses: states and operands that meet the hypotheses of each statement -/

/-- The report of E1, held by an idle block. -/
def heldE1 : State :=
  (loaded false frameE1).complete (.tcp ⟨4, 5, 40, 6, ⟨10, 0, 0, 1⟩, ⟨10, 0, 0, 2⟩⟩ 443 51000)

/-- A row has fallen through: V19's frame after `DISPATCH.TCP`. -/
def afterTcpRow : State :=
  { atPlace false (frameE1.take 28) 8 with tcpFit := some false, todo := [.udpRow] }

/-- ResetLeavesNoReport, by the reset event, from a state with a report. -/
theorem witness_ResetLeavesNoReport : ∃ s, step { heldE1 with inputs := [.reset] } = .next s := ⟨_, rfl⟩

/-- ResetEventAlwaysTaken, in the middle of a decode. -/
theorem witness_ResetEventAlwaysTaken : ({ begun false frameE1 with inputs := [.reset, .tick] } : State).inputs
    = .reset :: [.tick] := rfl

/-- The states of the two phases meet the invariant: an idle block with a report. -/
theorem witness_inv_idle : heldE1.Inv :=
  ⟨by decide, by decide, .inl ⟨⟨rfl, rfl, rfl, rfl⟩, .inr
    ⟨.tcp ⟨4, 5, 40, 6, ⟨10, 0, 0, 1⟩, ⟨10, 0, 0, 2⟩⟩ 443 51000, rfl, rfl⟩⟩⟩

/-- An idle block without a report, a frame in its buffer. -/
theorem witness_inv_fresh : (loaded true frameE1).Inv :=
  ⟨by decide, by decide, .inl ⟨⟨rfl, rfl, rfl, rfl⟩, .inl rfl⟩⟩

/-- A decode at its first place, of a frame of 19 bytes. -/
theorem witness_inDecode_first : (begun false (headerE1.take 19)).InDecode :=
  .inl ⟨0, by decide, rfl, by decide, rfl, rfl, rfl, rfl⟩

/-- A decode at its last place with the optional test passed. -/
theorem witness_inDecode_last : (atPlace true frameE1 9).InDecode :=
  .inl ⟨9, by decide, rfl, by decide, rfl, rfl, rfl, rfl⟩

/-- A decode of which a row has fallen through. -/
theorem witness_inDecode_later : afterTcpRow.InDecode := .inr ⟨.inl rfl, by decide, rfl, rfl⟩

/-- StepKeepsInvariant: a state of the invariant that steps. -/
theorem witness_StepKeepsInvariant : heldE1.Inv ∧ step heldE1 = .next heldE1 := ⟨witness_inv_idle, rfl⟩

/-- BlockNeverStopsByItself: in a decode, with nothing from outside. -/
theorem witness_BlockNeverStopsByItself : afterTcpRow.Inv ∧ afterTcpRow.inputs = [] :=
  ⟨⟨by decide, by decide, .inr witness_inDecode_later⟩, rfl⟩

/-- DecodeEndsWithinElevenSteps: at the first and at a later place. -/
theorem witness_DecodeEndsWithinElevenSteps :
    (begun false (headerE1.take 19)).InDecode ∧ (begun false (headerE1.take 19)).inputs = []
      ∧ afterTcpRow.InDecode ∧ afterTcpRow.inputs = [] :=
  ⟨witness_inDecode_first, rfl, witness_inDecode_later, rfl⟩

/-- FlagsAndRegistersFollowStatus: with a report and without. -/
theorem witness_FlagsAndRegistersFollowStatus :
    (heldE1.Inv ∧ heldE1.todo = [] ∧ heldE1.rpt.rv = true)
      ∧ ((loaded true frameE1).Inv ∧ (loaded true frameE1).todo = [] ∧ (loaded true frameE1).rpt.rv = false) :=
  ⟨⟨witness_inv_idle, rfl, rfl⟩, witness_inv_fresh, rfl, rfl⟩

/-- StepRunsSelectedOperation: at the dispatch, both clauses. -/
theorem witness_StepRunsSelectedOperation :
    (atPlace false frameE1 8).todo = .tcpRow :: [] ∧ decodeAt .tcpRow (atPlace false frameE1 8).rpt.proto = .ok .dispatchTcp
      ∧ (atPlace false frameE1 8).inputs = []
      ∧ ({ atPlace false frameE1 8 with inputs := [.tick] } : State).inputs = .tick :: [] := ⟨rfl, rfl, rfl, rfl⟩

/-- PresentRunsDecodeOnFrame: the longest frame, and the empty one. -/
theorem witness_PresentRunsDecodeOnFrame :
    (presenting false (List.replicate 1500 0)).todo = [] ∧ (List.replicate 1500 (0 : Byte)).length ≤ 1500
      ∧ (presenting false []).inputs = .present [] 0 :: [] ∧ (presenting false []).todo = [] := by
  exact ⟨rfl, Nat.le_of_eq List.length_replicate, rfl, rfl⟩

/-- DecodeSeesBytesAsLastWritten: the last byte of `FB`, and a byte the hand-over covers. -/
theorem witness_DecodeSeesBytesAsLastWritten :
    let s : State := { heldE1 with inputs := [.write 1499 7, .present frameV9 1500] }
    let s' : State := { heldE1 with inputs := [.write 27 7, .present frameV9 28] }
    s.todo = [] ∧ 1499 < 1500 ∧ frameV9.length ≤ 1500 ∧ ¬ 1499 < frameV9.length ∧ 1500 ≤ 1500
      ∧ s.inputs = .write 1499 7 :: .present frameV9 1500 :: [] ∧ s'.todo = [] ∧ 27 < frameV9.length
      ∧ s'.inputs = .write 27 7 :: .present frameV9 28 :: [] := by decide

/-- FrameTooLongIsRefused: one byte too many, and a length one too great. -/
theorem witness_FrameTooLongIsRefused : State.reset.todo = [] ∧ 1500 < (List.replicate 1501 (0 : Byte)).length
    ∧ 1500 < 1501
    ∧ ({ State.reset with inputs := [.present frameE1 1501] } : State).inputs = .present frameE1 1501 :: []
    ∧ ({ State.reset with inputs := [.start frameE1 1501] } : State).inputs = .start frameE1 1501 :: [] := by
  refine ⟨rfl, ?_, by decide, rfl, rfl⟩
  rw [List.length_replicate]
  decide

/-- HandOverDuringDecodeIsRefused. -/
theorem witness_HandOverDuringDecodeIsRefused :
    ({ begun false frameE1 with inputs := [.present frameV9 28] } : State).todo ≠ []
      ∧ ({ begun false frameE1 with inputs := [.present frameV9 28] } : State).inputs = .present frameV9 28 :: []
      ∧ ({ begun false frameE1 with inputs := [.start frameV9 28] } : State).inputs = .start frameV9 28 :: [] := by
  decide

/-- FrameChangeDuringDecodeIsRefused: the last byte of the frame, and the length. -/
theorem witness_FrameChangeDuringDecodeIsRefused :
    (begun false frameE1).todo ≠ [] ∧ (begun false frameE1).flen.toNat ≤ 1500 ∧ 39 < (begun false frameE1).flen.toNat
      ∧ ({ begun false frameE1 with inputs := [.write 39 1] } : State).inputs = .write 39 1 :: []
      ∧ ({ begun false frameE1 with inputs := [.setFlen 40] } : State).inputs = .setFlen 40 :: [] := by decide

/-- FrameSourceWriteChangesOneByte: the last byte that exists, and the first that does not. -/
theorem witness_FrameSourceWriteChangesOneByte :
    ({ heldE1 with inputs := [.write 1499 7] } : State).inputs = .write 1499 7 :: []
      ∧ ({ heldE1 with inputs := [.write 1499 7] } : State).todo = [] ∧ 1499 < 1500
      ∧ ({ heldE1 with inputs := [.write 1500 7] } : State).inputs = .write 1500 7 :: [] ∧ 1500 ≤ 1500 := by decide

/-- ReadingTheReportHasNoEffect: all four cases. -/
theorem witness_ReadingTheReportHasNoEffect :
    heldE1.rpt.rv = true ∧ State.reset.rpt.rv = false ∧ heldE1.rpt.value .sport = some 443
      ∧ (begun false frameE1).rpt.value .sport = none
      ∧ ({ heldE1 with inputs := [.readReport] } : State).inputs = .readReport :: []
      ∧ ({ heldE1 with inputs := [.readReg .sport] } : State).inputs = .readReg .sport :: [] := by decide

/-- IdleBlockHoldsItsReport. -/
theorem witness_IdleBlockHoldsItsReport : heldE1.inputs = [] ∧ heldE1.todo = [] ∧ heldE1.rpt.rv = true := by decide

/-- LenguardGuardsTwentyBytes and DecodeReportsTooShort: 19 bytes and 20 bytes, in both builds. -/
theorem witness_LenguardGuardsTwentyBytes : (loaded false (headerE1.take 19)).flen.toNat < 20
    ∧ 20 ≤ (loaded false headerE1).flen.toNat ∧ 20 ≤ (loaded true headerE1).flen.toNat
    ∧ (loaded true headerE1).build.ihlMinCheck = true := by decide

/-- TcpfitComparesExactly and UdpfitComparesExactly: `TOFF` 60 beyond a frame of 20 bytes. -/
theorem witness_fits : (atPlace false (frameOf 0x4F 6 20) 8).toff = some 60
    ∧ (atPlace false (frameOf 0x4F 6 20) 8).flen.toNat = 20 := by decide

/-- XverHoldsHighNibble, XihlHoldsLowNibble, XtotlenHoldsBigEndianLength, XprotoHoldsByteNine, XsrcHoldsBytesVerbatim,
XdstHoldsBytesVerbatim: each in the shortest frame that holds its bytes. -/
theorem witness_extractions : 1 ≤ (loaded false (headerE1.take 1)).flen.toNat
    ∧ 4 ≤ (loaded false (headerE1.take 4)).flen.toNat ∧ 10 ≤ (loaded false (headerE1.take 10)).flen.toNat
    ∧ 16 ≤ (loaded false (headerE1.take 16)).flen.toNat ∧ 20 ≤ (loaded false headerE1).flen.toNat := by decide

/-- Step2OrderDoesNotMatter: the reverse order. -/
theorem witness_Step2OrderDoesNotMatter : 20 ≤ (loaded false headerE1).flen.toNat
    ∧ [Instr.xdst, .xsrc, .xproto, .xtotlen, .xihl, .xver].Perm step2Instrs := by decide

/-- ToffcalcMultipliesByFour. -/
theorem witness_ToffcalcMultipliesByFour : (atPlace false (frameOf 0x4F 6 20) 7).rpt.ihl = some 15 := by decide

/-- IhlchkRejectsShortHeaders: absent; `IHL` 4; `IHL` 5. -/
theorem witness_IhlchkRejectsShortHeaders :
    (atPlace false (frameOf 0x44 6 20) 8).build.ihlMinCheck = false
      ∧ (atPlace true (frameOf 0x44 6 20) 8).build.ihlMinCheck = true
      ∧ (atPlace true (frameOf 0x44 6 20) 8).rpt.ihl = some 4 ∧ (4 : BitVec 4).toNat < 5
      ∧ (atPlace true (frameOf 0x45 6 20) 8).rpt.ihl = some 5 ∧ 5 ≤ (5 : BitVec 4).toNat := by decide

/-- DispatchTcpArmTaken: equality is enough. -/
theorem witness_DispatchTcpArmTaken : (atPlace false frameE1 8).rpt.proto = some 6
    ∧ (atPlace false frameE1 8).toff = some 20 ∧ (20 : BitVec 6).toNat + 20 ≤ (atPlace false frameE1 8).flen.toNat := by
  decide

/-- DispatchUdpArmTaken: equality is enough. -/
theorem witness_DispatchUdpArmTaken : (atPlace false frameV9 8).rpt.proto = some 17
    ∧ (atPlace false frameV9 8).toff = some 20 ∧ (20 : BitVec 6).toNat + 8 ≤ (atPlace false frameV9 8).flen.toNat := by
  decide

/-- DispatchArmFallsThrough: by the length, and by the protocol. -/
theorem witness_DispatchArmFallsThrough :
    (atPlace false (frameE1.take 39) 8).rpt.proto = some 6 ∧ (atPlace false (frameE1.take 39) 8).toff = some 20
      ∧ ¬ ((6 : Byte) = 6 ∧ (20 : BitVec 6).toNat + 20 ≤ (atPlace false (frameE1.take 39) 8).flen.toNat)
      ∧ ¬ ((6 : Byte) = 17 ∧ (20 : BitVec 6).toNat + 8 ≤ (atPlace false (frameE1.take 39) 8).flen.toNat)
      ∧ (atPlace false (frameV9.take 27) 8).rpt.proto = some 17 ∧ (atPlace false (frameV9.take 27) 8).toff = some 20
      ∧ ¬ ((17 : Byte) = 17 ∧ (20 : BitVec 6).toNat + 8 ≤ (atPlace false (frameV9.take 27) 8).flen.toNat) := by decide

/-- XsportHoldsSourcePort and XdportHoldsDestinationPort: the shortest frames that hold the port at `TOFF` 20. -/
theorem witness_ports : (atPlace false (frameE1.take 22) 8).toff = some 20
    ∧ (20 : BitVec 6).toNat + 2 ≤ (atPlace false (frameE1.take 22) 8).flen.toNat
    ∧ (atPlace false (frameE1.take 24) 8).toff = some 20
    ∧ (20 : BitVec 6).toNat + 4 ≤ (atPlace false (frameE1.take 24) 8).flen.toNat := by decide

/-- PortsOrderDoesNotMatter: the reverse order, in the shortest frame. -/
theorem witness_PortsOrderDoesNotMatter : (atPlace false (frameE1.take 24) 8).toff = some 20
    ∧ (20 : BitVec 6).toNat + 4 ≤ (atPlace false (frameE1.take 24) 8).flen.toNat
    ∧ [Instr.xdport, .xsport].Perm [.xsport, .xdport] := by decide

/-- OperationsLeaveTheFrameAlone and ExtractionsChangeOnlyTheirRegister: an extraction that answers a next state. -/
theorem witness_ExtractionsChangeOnlyTheirRegister : (destReg .xproto = some .proto ∧ .xproto ∈ step2Instrs
    ∧ ∃ t, exec .xproto (loaded false frameE1) = .next t)
    ∧ destReg .xdport = some .dport ∧ .xdport ∉ step2Instrs
    ∧ ∃ t, exec .xdport (atPlace false frameE1 8) = .next t :=
  ⟨⟨rfl, by decide, _, rfl⟩, rfl, by decide, _, rfl⟩

/-- StatusWrittenOnlyWhereNamed: a status that changes, to `TooShort`; and one that was there before. -/
theorem witness_StatusWrittenOnlyWhereNamed :
    ((nextOf (exec .lenguard (begun false (headerE1.take 19)))).map fun t => t.rpt.st) = some (some .tooShort)
      ∧ (begun false (headerE1.take 19)).rpt.st ≠ some .tooShort
      ∧ ((nextOf (exec .xver ((loaded false [0x45]).complete .tooShort))).map fun t => t.rpt.st)
        = some (some .tooShort) := by decide

/-- OperationsStopWithoutOperand: each clause, at the boundary. -/
theorem witness_OperationsStopWithoutOperand :
    (loaded true []).rpt.ihl = none ∧ (loaded true []).build.ihlMinCheck = true ∧ (loaded true []).rpt.proto = none
      ∧ (loaded false []).toff = none ∧ (atPlace false headerE1 7).toff = none
      ∧ (atPlace false headerE1 7).rpt.proto ≠ none
      ∧ (atPlace false (frameE1.take 21) 8).toff = some 20
      ∧ (atPlace false (frameE1.take 21) 8).flen.toNat < (20 : BitVec 6).toNat + 2
      ∧ (atPlace false (frameE1.take 23) 8).toff = some 20
      ∧ (atPlace false (frameE1.take 23) 8).flen.toNat < (20 : BitVec 6).toNat + 4
      ∧ (loaded false []).flen.toNat < 1 ∧ (loaded false (headerE1.take 3)).flen.toNat < 4
      ∧ (loaded false (headerE1.take 9)).flen.toNat < 10 ∧ (loaded false (headerE1.take 15)).flen.toNat < 16
      ∧ (loaded false (headerE1.take 19)).flen.toNat < 20 := by decide

/-- DecodeFollowsTheAlgorithm has no hypothesis; each of its five outcomes has a frame. -/
theorem witness_DecodeFollowsTheAlgorithm :
    decodeFrame true (loaded true (headerE1.take 19)).frameByte 19 = .tooShort
      ∧ decodeFrame true (loaded true (frameOf 0x44 6 20)).frameByte 20
        = .unsupported (ipFieldsOf (listByte (frameOf 0x44 6 20)))
      ∧ decodeFrame true (loaded true frameE1).frameByte 40 = .tcp (ipFieldsOf (listByte frameE1)) 443 51000
      ∧ decodeFrame false (loaded false frameV9).frameByte 28 = .udp (ipFieldsOf (listByte frameV9)) 54321 53
      ∧ decodeFrame false (loaded false frameV9).frameByte 27 = .unsupported (ipFieldsOf (listByte frameV9)) := by decide

/-- UnknownProtocolIsUnsupported: ICMP. -/
theorem witness_UnknownProtocolIsUnsupported : 20 ≤ (loaded false (frameOf 0x45 1 28)).flen.toNat
    ∧ (loaded false (frameOf 0x45 1 28)).frameByte 9 ≠ 6 ∧ (loaded false (frameOf 0x45 1 28)).frameByte 9 ≠ 17 := by decide

/-- ShortHeaderPortsOverlapIpHeader: for each `IHL` below 5 the shortest TCP frame and the shortest UDP frame
(the least lengths of R103), and TCP frames one byte short. -/
theorem witness_ShortHeaderPortsOverlapIpHeader :
    ((loaded false frameV20).build.ihlMinCheck = false)
      ∧ ([(0, 20), (1, 24), (2, 28), (3, 32), (4, 36)] : List (Nat × Nat)).all (fun p =>
          let s := loaded false (frameOf (BitVec.ofNat 8 (0x40 + p.1)) 6 p.2)
          decide ((s.frameByte 0).toNat % 16 = p.1 ∧ 20 ≤ s.flen.toNat ∧ s.frameByte 9 = 6
            ∧ 4 * p.1 + 20 ≤ s.flen.toNat)) = true
      ∧ ([(0, 20), (1, 20), (2, 20), (3, 20), (4, 24)] : List (Nat × Nat)).all (fun p =>
          let s := loaded false (frameOf (BitVec.ofNat 8 (0x40 + p.1)) 17 p.2)
          decide ((s.frameByte 0).toNat % 16 = p.1 ∧ 20 ≤ s.flen.toNat ∧ s.frameByte 9 = 17
            ∧ 4 * p.1 + 8 ≤ s.flen.toNat)) = true
      ∧ ([(1, 23), (2, 27), (3, 31), (4, 35)] : List (Nat × Nat)).all (fun p =>
          let s := loaded false (frameOf (BitVec.ofNat 8 (0x40 + p.1)) 6 p.2)
          decide ((s.frameByte 0).toNat % 16 = p.1 ∧ 20 ≤ s.flen.toNat
            ∧ ¬ (s.build.ihlMinCheck = false ∧ (s.frameByte 9 = 6 ∧ 4 * p.1 + 20 ≤ s.flen.toNat
              ∨ s.frameByte 9 = 17 ∧ 4 * p.1 + 8 ≤ s.flen.toNat)))) = true := by decide

/-- ReportDependsOnlyOnBytesRead: E1 against E1 with an unread byte changed. -/
theorem witness_ReportDependsOnlyOnBytesRead :
    (loaded false (frameE1.set 1 0xFF)).build = (loaded false frameE1).build
      ∧ (loaded false (frameE1.set 1 0xFF)).flen = (loaded false frameE1).flen
      ∧ (bytesRead false (loaded false frameE1).frameByte 40).length = 16
      ∧ (bytesRead false (loaded false frameE1).frameByte 40).all (fun a =>
          (loaded false (frameE1.set 1 0xFF)).frameByte a == (loaded false frameE1).frameByte a) = true
      ∧ (loaded false (frameE1.set 1 0xFF)).frameByte 1 ≠ (loaded false frameE1).frameByte 1 := by decide

/-- StepwiseDecodeEqualsAtomicDecode: the build and frame with the longest course. -/
theorem witness_StepwiseDecodeEqualsAtomicDecode : (loaded true (frameV9.take 27)).todo = []
    ∧ (frameV9.take 27).length ≤ 1500 ∧ 27 ≤ 1500 := by decide

/-- StreamReportsEachFrameAlone: program P1. -/
theorem witness_StreamReportsEachFrameAlone :
    let frames := [frameE1, headerE1.take 19, frameV9]
    let s : State := { State.reset with inputs := frames.map fun f => .present f f.length }
    s.todo = [] ∧ (∀ f ∈ frames, f.length ≤ 1500) ∧ s.inputs = frames.map (fun f => .present f f.length)
      ∧ 2 < frames.length := by decide

/-- PresentForgetsEarlierState: a fresh block and one that holds another report. -/
theorem witness_PresentForgetsEarlierState :
    (presenting false frameV9).todo = [] ∧ heldE1.todo = [] ∧ heldE1.build = (presenting false frameV9).build
      ∧ frameV9.length ≤ 1500 ∧ 28 ≤ frameV9.length ∧ (presenting false frameV9).inputs = .present frameV9 28 :: []
      ∧ ({ heldE1 with inputs := [.present frameV9 28, .readReport] } : State).inputs
        = .present frameV9 28 :: [.readReport] := by decide

/-- TcpFrameRoundTrip: `IHL` 5 with no gap, and `IHL` 15 with 40 bytes of gap, 16 bytes of rest. -/
theorem witness_TcpFrameRoundTrip :
    let u : UnreadBytes := ⟨0, 0, 0, 0, 0, 0x40, 0, 0⟩
    let h5 : IpFields := ⟨4, 5, 40, 6, ⟨10, 0, 0, 1⟩, ⟨10, 0, 0, 2⟩⟩
    let h15 : IpFields := ⟨4, 15, 80, 6, ⟨9, 9, 9, 9⟩, ⟨7, 7, 7, 7⟩⟩
    let gap := List.replicate 40 (0 : Byte)
    let rest := List.replicate 16 (0 : Byte)
    encodeFrame h5 u [] 443 51000 rest = frameE1 ∧ ([] : List Byte).length + 20 = h5.ihl.toNat * 4
      ∧ gap.length + 20 = h15.ihl.toNat * 4 ∧ 16 ≤ rest.length ∧ (encodeFrame h15 u gap 22 40961 rest).length = 80
      ∧ h5.proto = 6 ∧ h15.proto = 6 := by decide

/-- UdpFrameRoundTrip: V9's values, 4 bytes of rest. -/
theorem witness_UdpFrameRoundTrip :
    let u : UnreadBytes := ⟨0, 0, 0, 0, 0, 0x40, 0, 0⟩
    let h : IpFields := ⟨4, 5, 28, 17, ⟨192, 168, 1, 10⟩, ⟨8, 8, 8, 8⟩⟩
    encodeFrame h u [] 54321 53 [0, 8, 0, 0] = frameV9 ∧ ([] : List Byte).length + 20 = h.ihl.toNat * 4
      ∧ 4 ≤ ([0, 8, 0, 0] : List Byte).length ∧ h.proto = 17 ∧ frameV9.length ≤ 1500 := by decide

/-- EncodedOperationIsSelected: an operation of every build, and one of the other build only. -/
theorem witness_EncodedOperationIsSelected : Instr.wellFormed { ihlMinCheck := false } .dispatchUdp = true
    ∧ Instr.wellFormed { ihlMinCheck := true } .ihlchk = true := by decide

end Sys2Proof.Tests
end

section
/-! PROOFS. Where an operation stops for want of its operand (R6, R13, R17; the model's stops, assumptions 9, 12). An
operation asks for its operands in order, so its stop is that of the first operand it does not get. -/

namespace Sys2Proof.Machine

/-! ## A missing operand -/

theorem withOperand_of_error {α : Type} {x : Except Fault α} {k : α → Host.Outcome State Fault Refusal} {f : Fault}
    (h : x = .error f) : withOperand x k = .fault f := by
  rw [h, withOperand_error]

@[simp] theorem andThen_fault (f : Fault) (k : State → Host.Outcome State Fault Refusal) :
    andThen (.fault f) k = .fault f := rfl

/-! ## The offset and the header test: `IHL` -/

theorem exec_toffcalc_of_no_ihl {s : State} (h : s.rpt.ihl = none) : exec .toffcalc s = .fault (.noValue .ihl) :=
  withOperand_of_error (needIhl_of_none h)

theorem exec_ihlchk_of_no_ihl {s : State} (hb : s.build.ihlMinCheck = true) (h : s.rpt.ihl = none) :
    exec .ihlchk s = .fault (.noValue .ihl) :=
  (if_pos hb).trans (withOperand_of_error (needIhl_of_none h))

/-! ## The length tests and the ports: `TOFF`, then two bytes of the frame -/

theorem exec_tcpfit_of_no_toff {s : State} (h : s.toff = none) : exec .tcpfit s = .fault .noOffset :=
  withOperand_of_error (needToff_of_none h)

theorem exec_udpfit_of_no_toff {s : State} (h : s.toff = none) : exec .udpfit s = .fault .noOffset :=
  withOperand_of_error (needToff_of_none h)

theorem exec_xsport_of_no_toff {s : State} (h : s.toff = none) : exec .xsport s = .fault .noOffset :=
  withOperand_of_error (needToff_of_none h)

theorem exec_xdport_of_no_toff {s : State} (h : s.toff = none) : exec .xdport s = .fault .noOffset :=
  withOperand_of_error (needToff_of_none h)

theorem exec_xsport_of_lt {s : State} {t : BitVec 6} (ht : s.toff = some t) (h : s.flen.toNat < t.toNat + 2) :
    exec .xsport s = .fault .outsideFrame := by
  change execXsport s = _
  rw [execXsport, needToff_eq_ok.2 ht, withOperand_ok]
  exact withOperand_of_error (readBe16_of_lt h)

theorem exec_xdport_of_lt {s : State} {t : BitVec 6} (ht : s.toff = some t) (h : s.flen.toNat < t.toNat + 4) :
    exec .xdport s = .fault .outsideFrame := by
  change execXdport s = _
  rw [execXdport, needToff_eq_ok.2 ht, withOperand_ok]
  exact withOperand_of_error (readBe16_of_lt h)

/-! ## The two arms: `PROTO`, then the test of the arm -/

theorem exec_dispatchTcp_of_no_proto {s : State} (h : s.rpt.proto = none) :
    exec .dispatchTcp s = .fault (.noValue .proto) :=
  withOperand_of_error (needProto_of_none h)

theorem exec_dispatchUdp_of_no_proto {s : State} (h : s.rpt.proto = none) :
    exec .dispatchUdp s = .fault (.noValue .proto) :=
  withOperand_of_error (needProto_of_none h)

theorem exec_dispatchTcp_of_no_toff {s : State} (hp : s.rpt.proto ≠ none) (h : s.toff = none) :
    exec .dispatchTcp s = .fault .noOffset := by
  obtain ⟨p, hp⟩ := Option.ne_none_iff_exists'.1 hp
  have hfit : execTcpfit s = .fault .noOffset := exec_tcpfit_of_no_toff h
  change execDispatchTcp s = _
  rw [execDispatchTcp, needProto_eq_ok.2 hp, withOperand_ok, hfit, andThen_fault]

theorem exec_dispatchUdp_of_no_toff {s : State} (hp : s.rpt.proto ≠ none) (h : s.toff = none) :
    exec .dispatchUdp s = .fault .noOffset := by
  obtain ⟨p, hp⟩ := Option.ne_none_iff_exists'.1 hp
  have hfit : execUdpfit s = .fault .noOffset := exec_udpfit_of_no_toff h
  change execDispatchUdp s = _
  rw [execDispatchUdp, needProto_eq_ok.2 hp, withOperand_ok, hfit, andThen_fault]

/-! ## The six extractions of the IP header: bytes of the frame at a fixed offset -/

theorem exec_xver_of_lt {s : State} (h : s.flen.toNat < 1) : exec .xver s = .fault .outsideFrame :=
  withOperand_of_error (read1_of_lt h)

theorem exec_xihl_of_lt {s : State} (h : s.flen.toNat < 1) : exec .xihl s = .fault .outsideFrame :=
  withOperand_of_error (read1_of_lt h)

theorem exec_xtotlen_of_lt {s : State} (h : s.flen.toNat < 4) : exec .xtotlen s = .fault .outsideFrame :=
  withOperand_of_error (readBe16_of_lt h)

theorem exec_xproto_of_lt {s : State} (h : s.flen.toNat < 10) : exec .xproto s = .fault .outsideFrame :=
  withOperand_of_error (read1_of_lt h)

theorem exec_xsrc_of_lt {s : State} (h : s.flen.toNat < 16) : exec .xsrc s = .fault .outsideFrame :=
  withOperand_of_error (read4_of_lt h)

theorem exec_xdst_of_lt {s : State} (h : s.flen.toNat < 20) : exec .xdst s = .fault .outsideFrame :=
  withOperand_of_error (read4_of_lt h)

/-- Settles O37: each clause is the stop of one operation at the first operand it does not get. -/
theorem operationsStopWithoutOperand : Obligations.OperationsStopWithoutOperand := by
  intro s
  refine ⟨fun hi => ?ihl, fun hp => ?proto, fun ht => ?noToff, fun t ht => ?ports, fun h => ?byteZero,
    exec_xtotlen_of_lt, exec_xproto_of_lt, exec_xsrc_of_lt, exec_xdst_of_lt⟩
  case ihl => exact ⟨exec_toffcalc_of_no_ihl hi, fun hb => exec_ihlchk_of_no_ihl hb hi⟩
  case proto => exact ⟨exec_dispatchTcp_of_no_proto hp, exec_dispatchUdp_of_no_proto hp⟩
  case noToff =>
    exact ⟨exec_tcpfit_of_no_toff ht, exec_udpfit_of_no_toff ht, exec_xsport_of_no_toff ht, exec_xdport_of_no_toff ht,
      fun hp => ⟨exec_dispatchTcp_of_no_toff hp ht, exec_dispatchUdp_of_no_toff hp ht⟩⟩
  case ports => exact ⟨exec_xsport_of_lt ht, exec_xdport_of_lt ht⟩
  case byteZero => exact ⟨exec_xver_of_lt h, exec_xihl_of_lt h⟩

end Sys2Proof.Machine
end

section
/-! PROOFS. The state between decodes: what reset leaves, which registers hold values, the Frame Source's single write,
the consumer's reads, and a present that forgets what came before it (10_state.md R11 to R22). -/

namespace Sys2Proof.Machine

/-! ## Status, flags and registers (rules R13 to R16) -/

/-- A decode in progress has a place left to visit. -/
theorem State.InDecode.todo_ne_nil {s : State} (h : s.InDecode) : s.todo ≠ [] := by
  obtain ⟨done, hlt, htodo, -⟩ | ⟨hudp | helse, -⟩ := h
  · rw [htodo, Ne, List.drop_eq_nil_iff]
    omega
  · simp [hudp]
  · simp [helse]

/-- Between decodes the invariant says that the report is whole. -/
theorem State.Inv.whole_of_todo_nil {s : State} (h : s.Inv) (ht : s.todo = []) : s.rpt.Whole := by
  obtain ⟨-, hwhole⟩ | hdec := h.phase
  · exact hwhole
  · exact absurd ht hdec.todo_ne_nil

/-- Settles O7: the report is empty or one of the four rows of rule R114, and each row is as the statement says; the
protocol of a decoded row is the one its arm of the dispatch asks for. -/
theorem flagsAndRegistersFollowStatus : Obligations.FlagsAndRegistersFollowStatus := by
  intro s hinv htodo
  obtain hempty | ⟨rep, hcons, hrep⟩ := hinv.whole_of_todo_nil htodo
  · exact .inl ⟨by rw [hempty]; rfl, hempty⟩
  · right
    rw [hrep]
    cases rep with
    | tooShort => exact ⟨rfl, .tooShort, by simp [Report.toRpt, Rpt.empty]⟩
    | unsupported ip => exact ⟨rfl, .unsupportedOrTruncated, by simp [Report.toRpt, Rpt.empty, Rpt.withIp]⟩
    | tcp ip sport dport =>
      have hproto : ip.proto = 6 := hcons
      exact ⟨rfl, .decoded, by simp [Report.toRpt, Rpt.withIp, hproto]⟩
    | udp ip sport dport =>
      have hproto : ip.proto = 17 := hcons
      exact ⟨rfl, .decoded, by simp [Report.toRpt, Rpt.withIp, hproto]⟩

/-! ## A decode depends on the bytes below `FLEN` alone (rules R35, R43) -/

theorem ipFieldsOf_congr {F F' : Nat → Byte}
    (h : ∀ a ∈ [0, 2, 3, 9, 12, 13, 14, 15, 16, 17, 18, 19], F' a = F a) : ipFieldsOf F' = ipFieldsOf F := by
  simp only [List.forall_mem_cons] at h
  simp [ipFieldsOf, h]

theorem sourcePortAt_congr {F F' : Nat → Byte} {t : Nat} (h : ∀ i < 4, F' (t + i) = F (t + i)) :
    sourcePortAt F' t = sourcePortAt F t := by
  have h0 : F' t = F t := h 0 (by decide)
  rw [sourcePortAt, sourcePortAt, h0, h 1 (by decide)]

theorem destPortAt_congr {F F' : Nat → Byte} {t : Nat} (h : ∀ i < 4, F' (t + i) = F (t + i)) :
    destPortAt F' t = destPortAt F t := by
  rw [destPortAt, destPortAt, h 2 (by decide), h 3 (by decide)]

/-- The dispatch reads the ports only where they lie inside the frame. -/
theorem dispatchReport_congr {F F' : Nat → Byte} {n : Nat} (ip : IpFields) (h : ∀ a < n, F' a = F a) :
    dispatchReport F' n ip = dispatchReport F n ip := by
  have hports (hfit : ip.ihl.toNat * 4 + 8 ≤ n) :
      ∀ i < 4, F' (ip.ihl.toNat * 4 + i) = F (ip.ihl.toNat * 4 + i) := fun i hi => h _ (by omega)
  rw [dispatchReport_eq, dispatchReport_eq]
  split
  · next htcp =>
    have hp := hports (by omega)
    rw [sourcePortAt_congr hp, destPortAt_congr hp]
  · split
    · next hudp => rw [sourcePortAt_congr (hports hudp.2), destPortAt_congr (hports hudp.2)]
    · rfl

theorem decodeFrame_congr (chk : Bool) {F F' : Nat → Byte} {n : Nat} (h : ∀ a < n, F' a = F a) :
    decodeFrame chk F' n = decodeFrame chk F n := by
  obtain hlt | hle := Nat.lt_or_ge n 20
  · rw [decodeFrame_of_lt _ _ hlt, decodeFrame_of_lt _ _ hlt]
  · have hip : ipFieldsOf F' = ipFieldsOf F := by
      refine ipFieldsOf_congr fun a ha => h a ?_
      simp only [List.mem_cons, List.not_mem_nil, or_false] at ha
      omega
    rw [decodeFrame_of_le _ _ hle, decodeFrame_of_le _ _ hle, hip, dispatchReport_congr _ h]

/-- Settles O46: after the hand-over both states read the frame's own bytes below `FLEN`, and a decode depends on
nothing else but the build. -/
theorem presentForgetsEarlierState : Obligations.PresentForgetsEarlierState := by
  intro s s' frame n es es' ht ht' hbuild hlen hn hin hin'
  refine ⟨_, _, step_present hin ht hlen (by omega), step_present hin' ht' hlen (by omega), ?_⟩
  rw [State.complete_rpt, State.complete_rpt, hbuild]
  refine congrArg Report.toRpt (decodeFrame_congr _ fun a ha => ?_)
  have hframe : a < frame.length := by omega
  rw [State.loadFrame_frameByte _ _ _ hframe, State.loadFrame_frameByte _ _ _ hframe]

/-! ## Events -/

/-- While there are inputs the first of them is the next step (rules R132, R136). -/
theorem step_of_input {s : State} {e : Event} {es : List Event} (h : s.inputs = e :: es) :
    step s = handleEvent e (s.setInputs es) := by
  simp only [step, nextMove, h]

/-- Settles O1: the reset state, and a state reached by the reset event, hold the registers of `State.reset`. -/
theorem resetLeavesNoReport : Obligations.ResetLeavesNoReport := by
  rintro s (rfl | ⟨s0, es, hin, hstep⟩)
  · exact ⟨rfl, rfl⟩
  · rw [step_of_input hin] at hstep
    obtain rfl : resetEvent (s0.setInputs es) = s := Host.Outcome.next.inj hstep
    exact ⟨rfl, rfl⟩

/-! ## The Frame Source's single write (rules R11, R22, R40) -/

/-- After a single write the block reads the byte written there and every other byte as before. -/
theorem State.frameByte_write (s : State) (a x : Nat) (b : Byte) :
    ({ s with fb := s.fb.write a b } : State).frameByte x = if x = a then b else s.frameByte x := by
  by_cases h : x = a <;> simp [State.frameByte, Memory.read_write, h]

theorem writeEvent_of_todo_nil {s : State} {a : Nat} (b : Byte) (ht : s.todo = []) (ha : a < 1500) :
    writeEvent a b s = .next { s with fb := s.fb.write a b } := by
  rw [writeEvent, if_pos (show a < Config.maxf from ha), if_neg (fun h => h.1 ht)]

theorem writeEvent_of_le (s : State) {a : Nat} (b : Byte) (ha : 1500 ≤ a) :
    writeEvent a b s = .fault .outsideBuffer :=
  if_neg (Nat.not_lt.2 ha)

/-- Settles O13: the step is the write, which changes the one byte of `FB`. -/
theorem frameSourceWriteChangesOneByte : Obligations.FrameSourceWriteChangesOneByte := by
  intro s a b es hin
  refine ⟨fun ht ha => ⟨_, (step_of_input hin).trans (writeEvent_of_todo_nil b ht ha), ?_, fun x hx => ?_, rfl⟩,
    fun ha => (step_of_input hin).trans (writeEvent_of_le _ b ha)⟩
  · rw [State.frameByte_write, if_pos rfl]
  · rw [State.frameByte_write, if_neg hx, State.setInputs_frameByte]

/-! ## The consumer's reads (rules R13, R16, R136) -/

theorem State.readReport_of_rv {s : State} (h : s.rpt.rv = true) : s.readReport = some s.rpt := if_pos h

theorem State.readReport_of_no_rv {s : State} (h : s.rpt.rv = false) : s.readReport = none := by
  simp [State.readReport, h]

theorem State.readReg_of_rv {s : State} (reg : Reg) (h : s.rpt.rv = true) : s.readReg reg = s.rpt.value reg := if_pos h

theorem State.readReg_of_no_value {s : State} {reg : Reg} (h : s.rpt.rv = false ∨ s.rpt.value reg = none) :
    s.readReg reg = none := by
  obtain h | h := h <;> simp [State.readReg, h]

theorem readReportEvent_of_some {s : State} {r : Rpt} (h : s.readReport = some r) : readReportEvent s = .next s := by
  rw [readReportEvent, h]

theorem readReportEvent_of_none {s : State} (h : s.readReport = none) : readReportEvent s = .fault .noReport := by
  rw [readReportEvent, h]

theorem readRegEvent_of_some {s : State} {reg : Reg} {v : Nat} (h : s.readReg reg = some v) :
    readRegEvent reg s = .next s := by
  rw [readRegEvent, h]

theorem readRegEvent_of_none {s : State} {reg : Reg} (h : s.readReg reg = none) :
    readRegEvent reg s = .fault (.noValue reg) := by
  rw [readRegEvent, h]

/-- Settles O14: a read that finds a value answers the state it was made in, one that finds none stops. -/
theorem readingTheReportHasNoEffect : Obligations.ReadingTheReportHasNoEffect := by
  intro s es
  refine ⟨fun hin => ⟨fun hrv => ?report, fun hrv => ?noReport⟩,
    fun reg hin => ⟨fun v hrv hv => ?value, fun hno => ?noValue⟩⟩
  case report =>
    have hread := State.readReport_of_rv hrv
    exact ⟨hread, (step_of_input hin).trans (readReportEvent_of_some hread)⟩
  case noReport =>
    have hread := State.readReport_of_no_rv hrv
    exact ⟨hread, (step_of_input hin).trans (readReportEvent_of_none hread)⟩
  case value =>
    have hread : s.readReg reg = some v := (State.readReg_of_rv reg hrv).trans hv
    exact ⟨hread, (step_of_input hin).trans (readRegEvent_of_some hread)⟩
  case noValue => exact (step_of_input hin).trans (readRegEvent_of_none (State.readReg_of_no_value hno))

end Sys2Proof.Machine
end

section
/-! PROOFS. The frame in memory: no operation changes it, a decode reads inside it, it holds each byte as last written,
and a frame too long for it is refused (20_memory.md R33 to R42). -/

namespace Sys2Proof.Machine

/-! ## What the operations leave of the frame and the environment (rules R18, R22, R33) -/

/-- A byte of `FB` is read through the buffer and the counter of the free bytes alone. -/
theorem State.frameByte_congr {s t : State} (hfb : t.fb = s.fb) (hepoch : t.fbEpoch = s.fbEpoch) (a : Nat) :
    t.frameByte a = s.frameByte a := by
  simp only [State.frameByte, hfb, hepoch]

/-- Each way an operation can end is built of updates of the report, of `TOFF`, of the test results and of the course
of the decode. -/
theorem ExecResult.keeps_frame {i : Instr} {s t : State} (h : ExecResult s i t) :
    t.fb = s.fb ∧ t.flen = s.flen ∧ t.build = s.build ∧ t.inputs = s.inputs ∧ t.fbEpoch = s.fbEpoch := by
  cases h <;> exact ⟨rfl, rfl, rfl, rfl, rfl⟩

/-- Settles O34: by the inversion of `exec`; the bytes follow from the buffer. -/
theorem operationsLeaveTheFrameAlone : Obligations.OperationsLeaveTheFrameAlone := by
  intro i s t h
  obtain ⟨hfb, hflen, hbuild, hinputs, hepoch⟩ := (exec_cases h).keeps_frame
  exact ⟨hfb, hflen, hbuild, hinputs, hepoch, fun a => congrArg (Memory.read · a) hfb,
    State.frameByte_congr hfb hepoch⟩

/-! ## The bytes a decode reads (rules R35, R158) -/

/-- A decode reads ports only where an arm was taken, and then the four bytes at `TOFF` lie inside the frame. -/
theorem portOffsets_decodeFrame (chk : Bool) (F : Nat → Byte) (n : Nat) :
    (decodeFrame chk F n).portOffsets = []
      ∨ ∃ t, t + 4 ≤ n ∧ (decodeFrame chk F n).portOffsets = (List.range 4).map fun i => t + i := by
  obtain hlt | hle := Nat.lt_or_ge n 20
  · rw [decodeFrame_of_lt _ _ hlt]
    exact .inl rfl
  · rw [decodeFrame_of_le _ _ hle, dispatchReport_eq]
    split
    · exact .inl rfl
    · split
      · next htcp => exact .inr ⟨_, by omega, rfl⟩
      · split
        · next hudp => exact .inr ⟨_, by omega, rfl⟩
        · exact .inl rfl

theorem portOffsets_decodeFrame_lt (chk : Bool) (F : Nat → Byte) (n : Nat) :
    ∀ a ∈ (decodeFrame chk F n).portOffsets, a < n := by
  obtain hnone | ⟨t, hfit, hports⟩ := portOffsets_decodeFrame chk F n
  · simp [hnone]
  · simp only [hports, List.forall_mem_map, List.mem_range]
    omega

theorem portOffsets_decodeFrame_length_le (chk : Bool) (F : Nat → Byte) (n : Nat) :
    (decodeFrame chk F n).portOffsets.length ≤ 4 := by
  obtain hnone | ⟨t, -, hports⟩ := portOffsets_decodeFrame chk F n
  · simp [hnone]
  · simp [hports]

theorem bytesRead_of_lt (chk : Bool) (F : Nat → Byte) {n : Nat} (h : n < 20) : bytesRead chk F n = [] := if_pos h

theorem bytesRead_of_le (chk : Bool) (F : Nat → Byte) {n : Nat} (h : 20 ≤ n) :
    bytesRead chk F n =
      [0, 2, 3, 9, 12, 13, 14, 15, 16, 17, 18, 19] ++ (decodeFrame chk F n).portOffsets :=
  if_neg (Nat.not_lt.2 h)

/-- Settles O43: below 20 bytes nothing is read; from there on twelve bytes of the IP header, all below 20, and at most
the four of the ports. -/
theorem bytesReadLieInsideTheFrame : Obligations.BytesReadLieInsideTheFrame := by
  intro chk F n
  obtain hlt | hle := Nat.lt_or_ge n 20
  · simp [bytesRead_of_lt chk F hlt]
  · rw [bytesRead_of_le chk F hle, List.forall_mem_append, List.length_append]
    refine ⟨⟨fun a ha => ?_, portOffsets_decodeFrame_lt chk F n⟩,
      Nat.add_le_add_left (portOffsets_decodeFrame_length_le chk F n) 12⟩
    have hheader : ∀ a ∈ [0, 2, 3, 9, 12, 13, 14, 15, 16, 17, 18, 19], a < 20 := by decide
    exact Nat.lt_of_lt_of_le (hheader a ha) hle

/-! ## A hand-over after a single write (rules R37, R40) -/

/-- After a hand-over the block reads the frame's bytes where the frame covers `FB`, and what was there elsewhere. -/
theorem State.loadFrame_frameByte_eq (s : State) (frame : List Byte) (n i : Nat) :
    (s.loadFrame frame n).frameByte i = if h : i < frame.length then frame[i] else s.frameByte i := by
  split
  · next h => exact s.loadFrame_frameByte frame n h
  · next h => exact s.loadFrame_frameByte_of_le frame n (Nat.not_lt.1 h)

/-- An allowed present is `DECODE` on the state the hand-over leaves (rule R136). -/
theorem step_present_eq_exec {s : State} {frame : List Byte} {n : Nat} {es : List Event}
    (h : s.inputs = .present frame n :: es) (ht : s.todo = []) (hf : frame.length ≤ 1500) (hn : n ≤ 1500) :
    step s = exec .decode ((s.setInputs es).loadFrame frame n) :=
  (step_of_input h).trans (handOver_ok _ ht ((framePresentable_iff _ _).2 ⟨hf, hn⟩))

/-- What the block reads after a single write and then a hand-over: the frame where it covers `FB`, else the byte
written, else what was there before. -/
theorem State.frameByte_write_loadFrame (s : State) (a x n : Nat) (b : Byte) (es : List Event) (frame : List Byte) :
    ((({ s with fb := s.fb.write a b } : State).setInputs es).loadFrame frame n).frameByte x =
      if h : x < frame.length then frame[x] else if x = a then b else s.frameByte x := by
  rw [State.loadFrame_frameByte_eq, State.setInputs_frameByte, State.frameByte_write]

/-- Settles O54: the step of the write, the step of the present, and what is read after both. -/
theorem decodeSeesBytesAsLastWritten : Obligations.DecodeSeesBytesAsLastWritten := by
  intro s a b frame n es ht ha hf hn hin
  have hwrite := (step_of_input hin).trans (writeEvent_of_todo_nil b ht ha)
  refine ⟨_, _, _, hwrite, step_present_eq_exec rfl ht hf hn, rfl,
    loadFrame_flen_toNat _ frame hn, ?_, fun x hx => ?_⟩
  · rw [State.frameByte_write_loadFrame, if_pos rfl]
  · rw [State.frameByte_write_loadFrame, if_neg hx, State.setInputs_frameByte]

/-! ## A frame too long (rule R42) -/

theorem framePresentable_eq_false {frame : List Byte} {n : Nat} (h : 1500 < frame.length ∨ 1500 < n) :
    framePresentable frame n = false := by
  rw [Bool.eq_false_iff, Ne, framePresentable_iff]
  omega

/-- A free block refuses a frame that does not fit, whatever was to follow the hand-over. -/
theorem handOver_of_too_long {frame : List Byte} {n : Nat} {s : State}
    (k : State → Host.Outcome State Fault Refusal) (ht : s.todo = []) (h : 1500 < frame.length ∨ 1500 < n) :
    handOver frame n s k = .refused .frameTooLong := by
  simp [handOver, ht, framePresentable_eq_false h]

/-- Settles O10: present and start both begin with the hand-over. -/
theorem frameTooLongIsRefused : Obligations.FrameTooLongIsRefused := by
  intro s frame n es ht hlong
  exact ⟨fun hin => (step_of_input hin).trans (handOver_of_too_long _ ht hlong),
    fun hin => (step_of_input hin).trans (handOver_of_too_long (fun s1 => .next s1.beginDecode) ht hlong)⟩

end Sys2Proof.Machine
end

section
/-! PROOFS. Encodings: the selection of a micro-operation by place and protocol byte, the bit positions of the fields,
and the round trip from field values through a frame to the report (30_encoding.md R51 to R62). -/

namespace Sys2Proof.Machine

/-! ## A frame built from field values is reported with those values (rules R51, R52, R61) -/

theorem hiNibble_append (hi lo : BitVec 4) : hiNibble (hi ++ lo) = hi := BitVec.extractLsb'_append_eq_left

theorem loNibble_append (hi lo : BitVec 4) : loNibble (hi ++ lo) = lo := BitVec.extractLsb'_append_eq_right

/-- The bytes of a 16-bit field, the more significant first, are read back as the field (rule R31). -/
theorem be16_extract (v : BitVec 16) : be16 (v.extractLsb' 8 8) (v.extractLsb' 0 8) = v := by
  have h := v.isLt
  apply BitVec.eq_of_toNat_eq
  simp only [be16_toNat, BitVec.extractLsb'_toNat, Nat.shiftRight_eq_div_pow]
  omega

/-- The bytes `F` from `base` on are those of the list. -/
def HoldsAt (F : Nat → Byte) (base : Nat) : List Byte → Prop
  | [] => True
  | b :: bs => F base = b ∧ HoldsAt F (base + 1) bs

theorem holdsAt_append {F : Nat → Byte} {base : Nat} {as bs : List Byte} :
    HoldsAt F base (as ++ bs) ↔ HoldsAt F base as ∧ HoldsAt F (base + as.length) bs := by
  induction as generalizing base with
  | nil => simp [HoldsAt]
  | cons a as ih => simp [HoldsAt, ih, and_assoc, Nat.add_assoc, Nat.add_comm 1]

theorem holdsAt_of_getElem {F : Nat → Byte} {base : Nat} {bs : List Byte}
    (h : ∀ i (hi : i < bs.length), F (base + i) = bs[i]) : HoldsAt F base bs := by
  induction bs generalizing base with
  | nil => trivial
  | cons b bs ih =>
    refine ⟨h 0 (Nat.succ_pos _), ih fun i hi => ?_⟩
    rw [Nat.add_right_comm]
    exact h (i + 1) (Nat.succ_lt_succ hi)

/-- After a hand-over the block reads the frame from byte 0 on. -/
theorem State.loadFrame_holdsAt (s : State) (frame : List Byte) (n : Nat) :
    HoldsAt (s.loadFrame frame n).frameByte 0 frame :=
  holdsAt_of_getElem fun i hi => by rw [Nat.zero_add, s.loadFrame_frameByte frame n hi]

@[simp] theorem encodeIph_length (h : IpFields) (u : UnreadBytes) : (encodeIph h u).length = 20 := rfl

@[simp] theorem encodePorts_length (sport dport : BitVec 16) : (encodePorts sport dport).length = 4 := rfl

theorem encodeFrame_length (h : IpFields) (u : UnreadBytes) (gap : List Byte) (sport dport : BitVec 16)
    (rest : List Byte) :
    (encodeFrame h u gap sport dport rest).length = gap.length + 20 + 4 + rest.length := by
  simp only [encodeFrame, List.length_append, encodeIph_length, encodePorts_length, Nat.add_comm gap.length]

/-- Format `IPH` is read back as the six fields it was made of, whatever the unread bytes (rule R51). -/
theorem ipFieldsOf_encodeIph {F : Nat → Byte} {h : IpFields} {u : UnreadBytes} (hF : HoldsAt F 0 (encodeIph h u)) :
    ipFieldsOf F = h := by
  simp only [encodeIph, be16Bytes, Addr.bytes, List.cons_append, List.nil_append, HoldsAt, Nat.reduceAdd] at hF
  simp only [ipFieldsOf, hF, hiNibble_append, loNibble_append, be16_extract]

/-- Format `L4P` is read back as the two ports it was made of (rule R52). -/
theorem portsAt_encodePorts {F : Nat → Byte} {t : Nat} {sport dport : BitVec 16}
    (hF : HoldsAt F t (encodePorts sport dport)) : sourcePortAt F t = sport ∧ destPortAt F t = dport := by
  simp only [encodePorts, be16Bytes, List.cons_append, List.nil_append, HoldsAt, Nat.add_assoc, Nat.reduceAdd] at hF
  simp only [sourcePortAt, destPortAt, hF, be16_extract, and_self]

/-- A frame of the ordinary layout is read back as the fields and the ports it was made of (rule R61). -/
theorem fieldsOf_encodeFrame {F : Nat → Byte} {h : IpFields} {u : UnreadBytes} {gap : List Byte}
    {sport dport : BitVec 16} {rest : List Byte} (hgap : gap.length + 20 = h.ihl.toNat * 4)
    (hF : HoldsAt F 0 (encodeFrame h u gap sport dport rest)) :
    ipFieldsOf F = h ∧ sourcePortAt F (h.ihl.toNat * 4) = sport ∧ destPortAt F (h.ihl.toNat * 4) = dport := by
  obtain ⟨⟨⟨hiph, -⟩, hports⟩, -⟩ :
      ((HoldsAt F 0 (encodeIph h u) ∧ _) ∧ HoldsAt F (h.ihl.toNat * 4) (encodePorts sport dport)) ∧ _ := by
    simpa only [encodeFrame, holdsAt_append, List.length_append, encodeIph_length, Nat.zero_add,
      Nat.add_comm 20, hgap] using hF
  exact ⟨ipFieldsOf_encodeIph hiph, portsAt_encodePorts hports⟩

/-- In both builds a frame whose header is at least 20 bytes goes on to the dispatch (rule R92). -/
theorem decodeFrame_of_ihl (chk : Bool) {F : Nat → Byte} {n : Nat} (hn : 20 ≤ n)
    (hihl : 5 ≤ (ipFieldsOf F).ihl.toNat) : decodeFrame chk F n = dispatchReport F n (ipFieldsOf F) := by
  rw [decodeFrame_of_le _ _ hn, if_neg (fun h => Nat.not_lt.2 hihl h.2)]

/-- A frame of the ordinary layout is decoded into what the dispatch makes of its own values, in both builds. -/
theorem decodeFrame_encodeFrame (chk : Bool) {F : Nat → Byte} {h : IpFields} {u : UnreadBytes} {gap : List Byte}
    {sport dport : BitVec 16} {rest : List Byte} (hgap : gap.length + 20 = h.ihl.toNat * 4)
    (hF : HoldsAt F 0 (encodeFrame h u gap sport dport rest)) :
    decodeFrame chk F (encodeFrame h u gap sport dport rest).length =
      if h.proto = 6 ∧ 16 ≤ rest.length then .tcp h sport dport
      else if h.proto = 17 ∧ 4 ≤ rest.length then .udp h sport dport
      else .unsupported h := by
  obtain ⟨hip, hsport, hdport⟩ := fieldsOf_encodeFrame hgap hF
  have hlen : (encodeFrame h u gap sport dport rest).length = h.ihl.toNat * 4 + (4 + rest.length) := by
    rw [encodeFrame_length, hgap, Nat.add_assoc]
  have htcp : h.ihl.toNat * 4 + 20 ≤ h.ihl.toNat * 4 + (4 + rest.length) ↔ 16 ≤ rest.length := by omega
  have hudp : h.ihl.toNat * 4 + 8 ≤ h.ihl.toNat * 4 + (4 + rest.length) ↔ 4 ≤ rest.length := by omega
  rw [decodeFrame_of_ihl chk (by omega) (by rw [hip]; omega), dispatchReport_eq]
  simp only [hip, hsport, hdport, hlen, htcp, hudp]

/-- The present of a frame of the ordinary layout takes its input and reports what the dispatch makes of its values. -/
theorem step_present_encodeFrame {s : State} {es : List Event} {h : IpFields} {u : UnreadBytes} {gap : List Byte}
    {sport dport : BitVec 16} {rest : List Byte} (ht : s.todo = []) (hgap : gap.length + 20 = h.ihl.toNat * 4)
    (hlen : (encodeFrame h u gap sport dport rest).length ≤ 1500)
    (hin : s.inputs =
      .present (encodeFrame h u gap sport dport rest) (encodeFrame h u gap sport dport rest).length :: es) :
    ∃ t, step s = .next t ∧ t.inputs = es
      ∧ t.rpt = Report.toRpt (
        if h.proto = 6 ∧ 16 ≤ rest.length then .tcp h sport dport
        else if h.proto = 17 ∧ 4 ≤ rest.length then .udp h sport dport
        else .unsupported h) :=
  ⟨_, step_present hin ht hlen hlen, rfl,
    congrArg Report.toRpt (decodeFrame_encodeFrame _ hgap (State.loadFrame_holdsAt _ _ _))⟩

/-- Settles O47: the frame is decoded into its own values, and with protocol 6 and a rest of 16 bytes the TCP arm is
taken. -/
theorem tcpFrameRoundTrip : Obligations.TcpFrameRoundTrip := by
  intro s es h u gap sport dport rest ht hproto hgap hrest hlen hin
  obtain ⟨t, hstep, hinputs, hrpt⟩ := step_present_encodeFrame ht hgap hlen hin
  rw [if_pos ⟨hproto, hrest⟩] at hrpt
  exact ⟨t, hstep, hinputs, hrpt⟩

/-- Settles O48: likewise, with protocol 17 the TCP arm is passed over and with a rest of 4 bytes the UDP arm is
taken. -/
theorem udpFrameRoundTrip : Obligations.UdpFrameRoundTrip := by
  intro s es h u gap sport dport rest ht hproto hgap hrest hlen hin
  obtain ⟨t, hstep, hinputs, hrpt⟩ := step_present_encodeFrame ht hgap hlen hin
  rw [if_neg (by simp [hproto]), if_pos ⟨hproto, hrest⟩] at hrpt
  exact ⟨t, hstep, hinputs, hrpt⟩

/-! ## A protocol without an arm (rule R56) -/

/-- The dispatch of a protocol that is neither TCP nor UDP, whatever the length. -/
theorem dispatchReport_of_unknown (F : Nat → Byte) (n : Nat) {ip : IpFields} (h6 : ip.proto ≠ 6)
    (h17 : ip.proto ≠ 17) : dispatchReport F n ip = .unsupported ip := by
  rw [dispatchReport_eq, if_neg (fun h => h6 h.1), if_neg (fun h => h17 h.1)]

/-- Settles O40: the optional test and the dispatch both end in the one row. -/
theorem unknownProtocolIsUnsupported : Obligations.UnknownProtocolIsUnsupported := by
  intro s hlen h6 h17
  have hreport : decodeFrame s.build.ihlMinCheck s.frameByte s.flen.toNat = .unsupported (ipFieldsOf s.frameByte) := by
    rw [decodeFrame_of_le _ _ hlen, dispatchReport_of_unknown _ _ h6 h17, ite_self]
  refine ⟨ipFieldsOf s.frameByte, ipFieldsOf_read _, ?_⟩
  change execDecode s = _
  rw [execDecode, hreport]
  rfl

/-! ## Bit positions in the header and at `TOFF` (rules R51, R52) -/

theorem bytesNumber_lt (F : Nat → Byte) (n : Nat) : bytesNumber F n < 256 ^ n := by
  induction n with
  | zero => exact Nat.one_pos
  | succ n ih =>
    have hb := (F n).isLt
    rw [bytesNumber, Nat.pow_succ]
    omega

/-- The string of `m + n` bytes is that of the first `m` followed by that of the other `n`. -/
theorem bytesNumber_add (F : Nat → Byte) (m n : Nat) :
    bytesNumber F (m + n) = bytesNumber F m * 256 ^ n + bytesNumber (fun i => F (m + i)) n := by
  induction n with
  | zero => simp [bytesNumber]
  | succ n ih =>
    rw [← Nat.add_assoc, bytesNumber, ih, bytesNumber, Nat.add_mul, Nat.mul_assoc, ← Nat.pow_succ, Nat.add_assoc]

theorem bytesNumber_add_div (F : Nat → Byte) (m n : Nat) : bytesNumber F (m + n) / 256 ^ n = bytesNumber F m := by
  rw [bytesNumber_add, Nat.mul_comm, Nat.mul_add_div (Nat.pow_pos (by decide)), Nat.div_eq_of_lt (bytesNumber_lt _ n),
    Nat.add_zero]

theorem bytesNumber_add_mod (F : Nat → Byte) (m n : Nat) :
    bytesNumber F (m + n) % 256 ^ n = bytesNumber (fun i => F (m + i)) n := by
  rw [bytesNumber_add, Nat.mul_add_mod', Nat.mod_eq_of_lt (bytesNumber_lt _ n)]

/-- The `k` bytes after the first `m`, cut out of a string with `n` bytes below them. -/
theorem bytesNumber_slice (F : Nat → Byte) (m k n : Nat) :
    bytesNumber F (m + k + n) / 256 ^ n % 256 ^ k = bytesNumber (fun i => F (m + i)) k := by
  rw [bytesNumber_add_div, bytesNumber_add_mod]

theorem bytesNumber_one (F : Nat → Byte) : bytesNumber F 1 = (F 0).toNat := by simp [bytesNumber]

/-- A big-endian 16-bit field is the string of its two bytes. -/
theorem be16_toNat_eq_bytesNumber (F : Nat → Byte) : (be16 (F 0) (F 1)).toNat = bytesNumber F 2 := by
  simp [be16_toNat, bytesNumber]

theorem append_byte_toNat {w : Nat} (x : BitVec w) (b : Byte) : (x ++ b).toNat = x.toNat * 256 + b.toNat := by
  rw [BitVec.toNat_append, ← Nat.shiftLeft_add_eq_or_of_lt b.isLt, Nat.shiftLeft_eq]

/-- An address as a number is the string of its four bytes (rule R21). -/
theorem Addr.toWord_toNat_eq_bytesNumber (F : Nat → Byte) :
    (Addr.toWord ⟨F 0, F 1, F 2, F 3⟩).toNat = bytesNumber F 4 := by
  simp [Addr.toWord, append_byte_toNat, bytesNumber]

/-- Settles O49: each field is a string of whole bytes cut out of the header, the version and the header length the two
halves of its first byte. -/
theorem iphFieldsByBitPosition : Obligations.IphFieldsByBitPosition := by
  intro F
  have hfirst : bytesNumber F 20 / 2 ^ 152 % 2 ^ 8 = (F 0).toNat :=
    (bytesNumber_slice F 0 1 19).trans (bytesNumber_one _)
  refine ⟨?ver, ?ihl, ?totlen, ?proto, ?src, ?dst⟩
  case ver =>
    rw [show (ipFieldsOf F).ver.toNat = (F 0).toNat / 16 from hiNibble_toNat _]
    omega
  case ihl =>
    rw [show (ipFieldsOf F).ihl.toNat = (F 0).toNat % 16 from loNibble_toNat _]
    omega
  case totlen =>
    exact (be16_toNat_eq_bytesNumber fun i => F (2 + i)).trans (bytesNumber_slice F 2 2 16).symm
  case proto => exact (bytesNumber_one fun i => F (9 + i)).symm.trans (bytesNumber_slice F 9 1 10).symm
  case src =>
    exact (Addr.toWord_toNat_eq_bytesNumber fun i => F (12 + i)).trans (bytesNumber_slice F 12 4 4).symm
  case dst =>
    exact (Addr.toWord_toNat_eq_bytesNumber fun i => F (16 + i)).trans (bytesNumber_add_mod F 16 4).symm

/-- Settles O50: the source port is the upper half of the four bytes at `TOFF`, the destination port the lower. -/
theorem l4pFieldsByBitPosition : Obligations.L4pFieldsByBitPosition := by
  intro F t
  constructor
  · exact (be16_toNat_eq_bytesNumber fun i => F (t + i)).trans (bytesNumber_add_div _ 2 2).symm
  · exact (be16_toNat_eq_bytesNumber fun i => F (t + (2 + i))).trans
      (bytesNumber_add_mod (fun i => F (t + i)) 2 2).symm

/-! ## The selection of a micro-operation (rules R54, R62) -/

/-- Settles O8: the block's own step, with no input and on its own turn. -/
theorem stepRunsSelectedOperation : Obligations.StepRunsSelectedOperation := by
  intro s p rest i htodo hsel
  exact ⟨fun hin => (step_of_no_input hin).trans (blockMoves_at htodo hsel),
    fun es hin => (step_of_input hin).trans (blockMoves_at (s := s.setInputs es) htodo hsel)⟩

/-- Settles O30: with both operands there, an arm whose condition fails holds the result of its test and goes on. -/
theorem dispatchArmFallsThrough : Obligations.DispatchArmFallsThrough := by
  intro s p t hp ht
  exact ⟨fun h => (execDispatchTcp_eq hp ht).trans (if_neg h), fun h => (execDispatchUdp_eq hp ht).trans (if_neg h)⟩

/-- A row whose mask is the whole byte is selected by one protocol byte; any other goes on to the next row. -/
theorem selectRow_cons_of_full_mask {r : Row} {v : Byte} (hmask : r.mask = 0xFF) (hpattern : r.pattern = v.toNat)
    (p : Byte) (rs : List Row) : selectRow p (r :: rs) = if p = v then some r.instr else selectRow p rs := by
  have hand : p.toNat &&& 0xFF = p.toNat := (Nat.and_two_pow_sub_one_eq_mod _ 8).trans (Nat.mod_eq_of_lt p.isLt)
  have hsel : r.selectedBy p = true ↔ p = v := by
    rw [Row.selectedBy, hmask, hpattern, hand, beq_iff_eq, BitVec.toNat_inj]
  simp only [selectRow, hsel]

/-- A row with mask and pattern 0 is selected by every protocol byte. -/
theorem selectRow_cons_of_zero_mask {r : Row} (hmask : r.mask = 0) (hpattern : r.pattern = 0) (p : Byte)
    (rs : List Row) : selectRow p (r :: rs) = some r.instr := by
  have hsel : r.selectedBy p = true := by rw [Row.selectedBy, hmask, hpattern, Nat.and_zero, beq_self_eq_true]
  rw [selectRow, if_pos hsel]

theorem selectFrom_of_selectRow {skip : Nat} {p : Byte} {i : Instr}
    (h : selectRow p (dispatchRows.drop skip) = some i) : selectFrom skip (some p) = .ok i := by
  simp only [selectFrom, h]

/-- The rows from `DISPATCH.ELSE` on. -/
theorem selectRow_elseRow (p : Byte) : selectRow p (dispatchRows.drop 2) = some .dispatchElse :=
  selectRow_cons_of_zero_mask rfl rfl p []

/-- The rows from `DISPATCH.UDP` on. -/
theorem selectRow_udpRow (p : Byte) :
    selectRow p (dispatchRows.drop 1) = some (if p = 17 then .dispatchUdp else .dispatchElse) := by
  rw [apply_ite some, ← selectRow_elseRow p]
  exact selectRow_cons_of_full_mask rfl rfl p (dispatchRows.drop 2)

/-- The rows from `DISPATCH.TCP` on. -/
theorem selectRow_tcpRow (p : Byte) :
    selectRow p (dispatchRows.drop 0)
      = some (if p = 6 then .dispatchTcp else if p = 17 then .dispatchUdp else .dispatchElse) := by
  rw [apply_ite some, ← selectRow_udpRow p]
  exact selectRow_cons_of_full_mask rfl rfl p (dispatchRows.drop 1)

/-- Settles O51: each row of the map is selected by its own byte, the last by every byte. -/
theorem dispatchMapSelectsByProtocol : Obligations.DispatchMapSelectsByProtocol :=
  fun p => ⟨selectFrom_of_selectRow (selectRow_tcpRow p), selectFrom_of_selectRow (selectRow_udpRow p),
    selectFrom_of_selectRow (selectRow_elseRow p)⟩

/-- At its place every micro-operation is selected by the bits the encoder gives it, in every build. -/
theorem decodeAt_encode : (i : Instr) → decodeAt (placeOf i) (encode i).head? = .ok i
  | .decode => Laws.Encoding.decode
  | .lenguard => Laws.Encoding.lenguard
  | .xver => Laws.Encoding.xver
  | .xihl => Laws.Encoding.xihl
  | .xtotlen => Laws.Encoding.xtotlen
  | .xproto => Laws.Encoding.xproto
  | .xsrc => Laws.Encoding.xsrc
  | .xdst => Laws.Encoding.xdst
  | .toffcalc => Laws.Encoding.toffcalc
  | .ihlchk => Laws.Encoding.ihlchk
  | .tcpfit => Laws.Encoding.tcpfit
  | .udpfit => Laws.Encoding.udpfit
  | .dispatchTcp => Laws.Encoding.dispatchTcp
  | .dispatchUdp => Laws.Encoding.dispatchUdp
  | .dispatchElse => Laws.Encoding.dispatchElse
  | .xsport => Laws.Encoding.xsport
  | .xdport => Laws.Encoding.xdport

/-- Settles O52: the selection does not depend on the build. -/
theorem encodedOperationIsSelected : Obligations.EncodedOperationIsSelected :=
  fun _ i _ => decodeAt_encode i

end Sys2Proof.Machine
end

section
/-! PROOFS. The frame-length validator: the guard and the two length tests, each once in the model's own terms and
then over the natural numbers (40_length_validation.md R70 to R73). -/

namespace Sys2Proof.Machine

/-! ## The guard: `FLEN` against 20 (rule R70) -/

theorem exec_lenguard_of_lt {s : State} (h : s.flen.toNat < 20) : exec .lenguard s = .next (s.raise .tooShort) :=
  if_pos ((tooShortLength_iff _).2 h)

theorem exec_lenguard_of_le {s : State} (h : 20 ≤ s.flen.toNat) :
    exec .lenguard s = .next (s.continueAt (placesAfterGuard s.build)) :=
  if_neg fun hshort => Nat.not_lt.2 h ((tooShortLength_iff _).1 hshort)

/-- Raising `TooShort` leaves the report row of R114 for it, whatever the report held before (rule R121). -/
theorem raise_tooShort_eq_finishedWith (s : State) :
    s.raise .tooShort = s.finishedWith (rptRow .tooShort false false none none none) := rfl

/-- Settles O16: the guard's two outcomes, with the report of `TooShort` and the places of step 2 written out. -/
theorem lenguardGuardsTwentyBytes : Obligations.LenguardGuardsTwentyBytes := by
  intro s
  constructor
  · intro h
    rw [exec_lenguard_of_lt h, raise_tooShort_eq_finishedWith]
  · exact exec_lenguard_of_le

/-! ## The two tests: `FLEN` against `TOFF` and the least header (rules R71, R72) -/

theorem withOperand_of_ok {α : Type} {x : Except Fault α} {k : α → Host.Outcome State Fault Refusal} {v : α}
    (h : x = .ok v) : withOperand x k = k v := by
  rw [h, withOperand_ok]

theorem exec_tcpfit_of_toff {s : State} {t : BitVec 6} (ht : s.toff = some t) :
    exec .tcpfit s = .next (s.setTcpFit (tcpFits s.flen.toNat t.toNat)) :=
  withOperand_of_ok (needToff_eq_ok.2 ht)

theorem exec_udpfit_of_toff {s : State} {t : BitVec 6} (ht : s.toff = some t) :
    exec .udpfit s = .next (s.setUdpFit (udpFits s.flen.toNat t.toNat)) :=
  withOperand_of_ok (needToff_eq_ok.2 ht)

/-- Settles O17: the result held is `tcpFits`, a comparison of natural numbers (rule R73). -/
theorem tcpfitComparesExactly : Obligations.TcpfitComparesExactly :=
  fun _ _ => exec_tcpfit_of_toff

/-- Settles O18: the result held is `udpFits`, a comparison of natural numbers (rule R73). -/
theorem udpfitComparesExactly : Obligations.UdpfitComparesExactly :=
  fun _ _ => exec_udpfit_of_toff

end Sys2Proof.Machine
end

section
/-! PROOFS. The IP header decoder: what each of the six extractions answers, the flag they set as a group in whatever
order they run, and the frame of every data extraction (41_ip_header_decode.md R80 to R86). -/

namespace Sys2Proof.Machine

/-! ## The six extractions with their bytes inside the frame (rules R80 to R85) -/

theorem exec_xver_of_le {s : State} (h : 1 ≤ s.flen.toNat) :
    exec .xver s = .next (s.setRpt (Rpt.groupIpv { s.rpt with ver := some (ipFieldsOf s.frameByte).ver })) :=
  withOperand_of_ok (read1_of_le h)

theorem exec_xihl_of_le {s : State} (h : 1 ≤ s.flen.toNat) :
    exec .xihl s = .next (s.setRpt (Rpt.groupIpv { s.rpt with ihl := some (ipFieldsOf s.frameByte).ihl })) :=
  withOperand_of_ok (read1_of_le h)

theorem exec_xtotlen_of_le {s : State} (h : 4 ≤ s.flen.toNat) :
    exec .xtotlen s = .next (s.setRpt (Rpt.groupIpv { s.rpt with totlen := some (ipFieldsOf s.frameByte).totlen })) :=
  withOperand_of_ok (readBe16_of_le h)

theorem exec_xproto_of_le {s : State} (h : 10 ≤ s.flen.toNat) :
    exec .xproto s = .next (s.setRpt (Rpt.groupIpv { s.rpt with proto := some (ipFieldsOf s.frameByte).proto })) :=
  withOperand_of_ok (read1_of_le h)

theorem exec_xsrc_of_le {s : State} (h : 16 ≤ s.flen.toNat) :
    exec .xsrc s = .next (s.setRpt (Rpt.groupIpv { s.rpt with src := some (ipFieldsOf s.frameByte).src })) :=
  withOperand_of_ok (read4_of_le h)

theorem exec_xdst_of_le {s : State} (h : 20 ≤ s.flen.toNat) :
    exec .xdst s = .next (s.setRpt (Rpt.groupIpv { s.rpt with dst := some (ipFieldsOf s.frameByte).dst })) :=
  withOperand_of_ok (read4_of_le h)

/-- The group leaves `IPV` as it is or sets it. -/
theorem Rpt.groupIpv_ipv_or (r : Rpt) : r.groupIpv.ipv = r.ipv ∨ r.groupIpv.ipv = some true := by
  rw [Rpt.groupIpv_ipv]
  split
  · exact .inr rfl
  · exact .inl rfl

/-- Settles O19: the version of format `IPH`, and the group's flag. -/
theorem xverHoldsHighNibble : Obligations.XverHoldsHighNibble :=
  fun s h => ⟨_, _, hiNibble_toNat _, Rpt.groupIpv_ipv_or { s.rpt with ver := some _ }, exec_xver_of_le h⟩

/-- Settles O20: the header length of format `IPH`, and the group's flag. -/
theorem xihlHoldsLowNibble : Obligations.XihlHoldsLowNibble :=
  fun s h => ⟨_, _, loNibble_toNat _, Rpt.groupIpv_ipv_or { s.rpt with ihl := some _ }, exec_xihl_of_le h⟩

/-- Settles O21: the total length of format `IPH`, and the group's flag. -/
theorem xtotlenHoldsBigEndianLength : Obligations.XtotlenHoldsBigEndianLength :=
  fun s h => ⟨_, _, be16_toNat _ _, Rpt.groupIpv_ipv_or { s.rpt with totlen := some _ }, exec_xtotlen_of_le h⟩

/-- Settles O22: the protocol identifier of format `IPH`, and the group's flag. -/
theorem xprotoHoldsByteNine : Obligations.XprotoHoldsByteNine :=
  fun s h => ⟨_, Rpt.groupIpv_ipv_or { s.rpt with proto := some _ }, exec_xproto_of_le h⟩

/-- Settles O23: the source address of format `IPH`, and the group's flag. -/
theorem xsrcHoldsBytesVerbatim : Obligations.XsrcHoldsBytesVerbatim :=
  fun s h => ⟨_, Rpt.groupIpv_ipv_or { s.rpt with src := some _ }, exec_xsrc_of_le h⟩

/-- Settles O24: the destination address of format `IPH`, and the group's flag. -/
theorem xdstHoldsBytesVerbatim : Obligations.XdstHoldsBytesVerbatim :=
  fun s h => ⟨_, Rpt.groupIpv_ipv_or { s.rpt with dst := some _ }, exec_xdst_of_le h⟩

/-! ## The six in any order (rule R86) -/

/-- The report with the value that an extraction of step 2 takes from the header, before the group's flag. -/
def Rpt.hold (ip : IpFields) (r : Rpt) : Instr → Rpt
  | .xver => { r with ver := some ip.ver }
  | .xihl => { r with ihl := some ip.ihl }
  | .xtotlen => { r with totlen := some ip.totlen }
  | .xproto => { r with proto := some ip.proto }
  | .xsrc => { r with src := some ip.src }
  | .xdst => { r with dst := some ip.dst }
  | _ => r

/-- The report an extraction of step 2 leaves: its value held, then the group's flag. -/
def Rpt.extract (ip : IpFields) (r : Rpt) (i : Instr) : Rpt := (r.hold ip i).groupIpv

/-- On a frame of 20 bytes each extraction of step 2 answers, and `Rpt.extract` is its whole effect. -/
theorem exec_of_mem_step2Instrs {s : State} {i : Instr} (hlen : 20 ≤ s.flen.toNat) (hi : i ∈ step2Instrs) :
    exec i s = .next (s.setRpt (s.rpt.extract (ipFieldsOf s.frameByte) i)) := by
  simp only [step2Instrs, List.mem_cons, List.not_mem_nil, or_false] at hi
  obtain rfl | rfl | rfl | rfl | rfl | rfl := hi
  · exact exec_xver_of_le (by omega)
  · exact exec_xihl_of_le (by omega)
  · exact exec_xtotlen_of_le (by omega)
  · exact exec_xproto_of_le (by omega)
  · exact exec_xsrc_of_le (by omega)
  · exact exec_xdst_of_le hlen

/-- Extractions of step 2 one after another work on the report alone and never stop. -/
theorem execAll_of_subset_step2Instrs {s : State} {is : List Instr} (hlen : 20 ≤ s.flen.toNat)
    (his : is ⊆ step2Instrs) :
    execAll is s = .next (s.setRpt (is.foldl (Rpt.extract (ipFieldsOf s.frameByte)) s.rpt)) := by
  induction is generalizing s with
  | nil => rfl
  | cons i is ih =>
    obtain ⟨hi, his⟩ := List.cons_subset.1 his
    rw [execAll, exec_of_mem_step2Instrs hlen hi]
    exact ih hlen his

theorem Rpt.groupIpv_of_holdsIp {r : Rpt} (h : r.holdsIp = true) : r.groupIpv = { r with ipv := some true } := by
  rw [Rpt.groupIpv, if_pos h]

theorem Rpt.groupIpv_of_not_holdsIp {r : Rpt} (h : ¬ r.holdsIp = true) : r.groupIpv = r := by
  rw [Rpt.groupIpv, if_neg h]

/-- A complete group stays complete. -/
theorem Rpt.holdsIp_hold {r : Rpt} (ip : IpFields) (i : Instr) (h : r.holdsIp = true) :
    (r.hold ip i).holdsIp = true := by
  rw [Rpt.holdsIp_iff] at h ⊢
  cases i <;> simp [Rpt.hold, h]

/-- The flag may be left to the later extraction: if the group was complete before, it is complete after. -/
theorem Rpt.extract_groupIpv (ip : IpFields) (r : Rpt) (i : Instr) : r.groupIpv.extract ip i = r.extract ip i := by
  by_cases h : r.holdsIp = true
  · have hgroup : r.groupIpv.holdsIp = true := h
    rw [Rpt.extract, Rpt.extract, Rpt.groupIpv_of_holdsIp (Rpt.holdsIp_hold ip i hgroup),
      Rpt.groupIpv_of_holdsIp (Rpt.holdsIp_hold ip i h)]
    cases i <;> rfl
  · rw [Rpt.groupIpv_of_not_holdsIp h]

theorem Rpt.extract_extract (ip : IpFields) (r : Rpt) (i j : Instr) :
    (r.extract ip i).extract ip j = (r.hold ip i).extract ip j :=
  Rpt.extract_groupIpv ip (r.hold ip i) j

theorem Rpt.hold_comm (ip : IpFields) (r : Rpt) (i j : Instr) : (r.hold ip i).hold ip j = (r.hold ip j).hold ip i := by
  cases i <;> cases j <;> rfl

/-- Two extractions commute: their values go to registers of their own, and the flag waits for both. -/
theorem Rpt.extract_comm (ip : IpFields) (r : Rpt) (i j : Instr) :
    (r.extract ip i).extract ip j = (r.extract ip j).extract ip i := by
  rw [Rpt.extract_extract, Rpt.extract_extract, Rpt.extract, Rpt.extract, Rpt.hold_comm]

/-- In the order of the table the six hold every value of the header, and the last of them sets `IPV`. -/
theorem foldl_extract_step2Instrs (ip : IpFields) (r : Rpt) :
    step2Instrs.foldl (Rpt.extract ip) r = r.withIp ip := by
  simp only [step2Instrs, List.foldl_cons, List.foldl_nil, Rpt.extract_extract]
  simp only [Rpt.extract, Rpt.hold]
  exact Rpt.groupIpv_of_holdsIp rfl

/-- Settles O25: extractions commute, so every order ends in the report of the table's order. -/
theorem step2OrderDoesNotMatter : Obligations.Step2OrderDoesNotMatter := by
  intro s is hlen hperm
  refine ⟨ipFieldsOf s.frameByte, ipFieldsOf_read _, ?_⟩
  rw [execAll_of_subset_step2Instrs hlen hperm.subset,
    hperm.foldl_eq' (fun i _ j _ r => Rpt.extract_comm _ r i j), foldl_extract_step2Instrs]
  rfl

/-! ## What a data extraction leaves unchanged (rules R80 to R86, R100 to R102) -/

/-- `r'` is `r` but for the value of the data register `d`, which it holds. -/
structure Rpt.HoldsOnly (d : Reg) (r r' : Rpt) : Prop where
  value_of_ne : ∀ reg, reg ≠ d → r'.value reg = r.value reg
  isSome      : (r'.value d).isSome = true
  rv          : r'.rv = r.rv
  ipv         : r'.ipv = r.ipv
  l4v         : r'.l4v = r.l4v

/-- INVERSION of a data extraction: its own register is written, then the flag of its group. -/
theorem extraction_cases {i : Instr} {d : Reg} {s t : State} (hd : destReg i = some d) (h : exec i s = .next t) :
    ∃ r, (i ∈ step2Instrs ∧ t = s.setRpt r.groupIpv ∨ i ∉ step2Instrs ∧ t = s.setRpt r.groupL4v)
      ∧ s.rpt.HoldsOnly d r := by
  cases exec_cases h <;> cases hd
  case version | headerLength | totalLength | protocol | source | destination =>
    exact ⟨_, .inl ⟨by decide, rfl⟩, fun reg => by cases reg <;> simp [Rpt.value], rfl, rfl, rfl, rfl⟩
  case sourcePort | destinationPort =>
    exact ⟨_, .inr ⟨by decide, rfl⟩, fun reg => by cases reg <;> simp [Rpt.value], rfl, rfl, rfl, rfl⟩

theorem destReg_ne_flag {i : Instr} {d : Reg} (hd : destReg i = some d) : d ≠ .ipv ∧ d ≠ .l4v := by
  cases i <;> cases hd <;> decide

theorem Rpt.groupIpv_value (r : Rpt) {reg : Reg} (h : reg ≠ .ipv) : r.groupIpv.value reg = r.value reg := by
  cases reg
  case ipv => exact absurd rfl h
  all_goals rfl

theorem Rpt.groupL4v_value (r : Rpt) {reg : Reg} (h : reg ≠ .l4v) : r.groupL4v.value reg = r.value reg := by
  cases reg
  case l4v => exact absurd rfl h
  all_goals rfl

/-- Settles O35: the register is written, then the flag of the group, which no data register is. -/
theorem extractionsChangeOnlyTheirRegister : Obligations.ExtractionsChangeOnlyTheirRegister := by
  intro i d s t hd h
  obtain ⟨hipv, hl4v⟩ := destReg_ne_flag hd
  obtain ⟨r, ⟨hi, rfl⟩ | ⟨hi, rfl⟩, hr⟩ := extraction_cases hd h
  · exact ⟨fun reg hne hne' _ => (r.groupIpv_value hne').trans (hr.value_of_ne reg hne),
      (congrArg Option.isSome (r.groupIpv_value hipv)).trans hr.isSome, hr.rv, rfl, rfl, rfl, rfl,
      fun _ => ⟨hr.l4v, ite_congr (propext r.holdsIp_iff) (fun _ => rfl) (fun _ => hr.ipv)⟩,
      fun hni => absurd hi hni⟩
  · exact ⟨fun reg hne _ hne' => (r.groupL4v_value hne').trans (hr.value_of_ne reg hne),
      (congrArg Option.isSome (r.groupL4v_value hl4v)).trans hr.isSome, hr.rv, rfl, rfl, rfl, rfl,
      fun hmem => absurd hmem hi,
      fun _ => ⟨hr.ipv, ite_congr (propext r.holdsPorts_iff) (fun _ => rfl) (fun _ => hr.l4v)⟩⟩

end Sys2Proof.Machine
end

section
/-! PROOFS. Transport offset and dispatch: what each operation answers, and a decode in progress that moves from place
to place until it completes (42_protocol_dispatch.md R90 to R93, 70_reset_and_hazards.md R158). -/

namespace Sys2Proof.Machine

/-! ## The offset and the header test: `IHL` (rules R90, R92) -/

theorem exec_toffcalc_of_ihl {s : State} {ihl : BitVec 4} (h : s.rpt.ihl = some ihl) :
    exec .toffcalc s = .next (s.setToff (transportOffset ihl)) :=
  withOperand_of_ok (needIhl_eq_ok.2 h)

/-- Settles O26: `transportOffset` is the product over the natural numbers, as 15 * 4 fits in 6 bits. -/
theorem toffcalcMultipliesByFour : Obligations.ToffcalcMultipliesByFour :=
  fun _ ihl h => ⟨transportOffset ihl, transportOffset_toNat ihl, exec_toffcalc_of_ihl h⟩

theorem exec_ihlchk_of_no_check {s : State} (hb : s.build.ihlMinCheck = false) : exec .ihlchk s = .next s :=
  if_neg (by rw [hb]; decide)

theorem exec_ihlchk_of_lt {s : State} {ihl : BitVec 4} (hb : s.build.ihlMinCheck = true) (hihl : s.rpt.ihl = some ihl)
    (h : ihl.toNat < 5) : exec .ihlchk s = .next (s.raise .unsupportedOrTruncated) :=
  (if_pos hb).trans ((withOperand_of_ok (needIhl_eq_ok.2 hihl)).trans (if_pos ((ihlBelowMin_iff ihl).2 h)))

theorem exec_ihlchk_of_le {s : State} {ihl : BitVec 4} (hb : s.build.ihlMinCheck = true) (hihl : s.rpt.ihl = some ihl)
    (h : 5 ≤ ihl.toNat) : exec .ihlchk s = .next (s.continueAt [.tcpRow]) :=
  (if_pos hb).trans ((withOperand_of_ok (needIhl_eq_ok.2 hihl)).trans
    (if_neg fun hbelow => Nat.not_lt.2 h ((ihlBelowMin_iff ihl).1 hbelow)))

/-- Raising `UnsupportedOrTruncated` writes the status and the flags and leaves the six IP registers (rule R122). -/
theorem raise_unsupported_eq_finishedWith (s : State) :
    s.raise .unsupportedOrTruncated = s.finishedWith
      { s.rpt with rv := true, st := some .unsupportedOrTruncated, ipv := some true, l4v := some false
                   l4k := none, sport := none, dport := none } := rfl

/-- Settles O27: the test's outcome in each build, with the report of `UnsupportedOrTruncated` written out. -/
theorem ihlchkRejectsShortHeaders : Obligations.IhlchkRejectsShortHeaders := by
  intro s
  refine ⟨exec_ihlchk_of_no_check, fun ihl hb hihl => ⟨fun h => ?_, exec_ihlchk_of_le hb hihl⟩⟩
  rw [exec_ihlchk_of_lt hb hihl h, raise_unsupported_eq_finishedWith]

/-! ## The three arms (rules R54, R91) -/

theorem exec_dispatchTcp_of_fits {s : State} {t : BitVec 6} (hp : s.rpt.proto = some 6) (ht : s.toff = some t)
    (h : t.toNat + 20 ≤ s.flen.toNat) :
    exec .dispatchTcp s = .next (s.setRpt (Rpt.decodedAs { s.rpt with
      sport := some (sourcePortAt s.frameByte t.toNat), dport := some (destPortAt s.frameByte t.toNat) } .tcp)).endDecode := by
  have hports : t.toNat + 4 ≤ s.flen.toNat := by omega
  have harm := takeArm_of_le (s := s.setTcpFit true) .tcp ht hports
  exact (execDispatchTcp_eq hp ht).trans ((if_pos ⟨rfl, h⟩).trans harm)

theorem exec_dispatchUdp_of_fits {s : State} {t : BitVec 6} (hp : s.rpt.proto = some 17) (ht : s.toff = some t)
    (h : t.toNat + 8 ≤ s.flen.toNat) :
    exec .dispatchUdp s = .next (s.setRpt (Rpt.decodedAs { s.rpt with
      sport := some (sourcePortAt s.frameByte t.toNat), dport := some (destPortAt s.frameByte t.toNat) } .udp)).endDecode := by
  have hports : t.toNat + 4 ≤ s.flen.toNat := by omega
  have harm := takeArm_of_le (s := s.setUdpFit true) .udp ht hports
  exact (execDispatchUdp_eq hp ht).trans ((if_pos ⟨rfl, h⟩).trans harm)

/-- Settles O28: the arm holds the two ports at `TOFF`, as numbers. -/
theorem dispatchTcpArmTaken : Obligations.DispatchTcpArmTaken :=
  fun s t hp ht h => ⟨_, _, portsOf_read s.frameByte t.toNat, exec_dispatchTcp_of_fits hp ht h⟩

/-- Settles O29: the arm holds the two ports at `TOFF`, as numbers. -/
theorem dispatchUdpArmTaken : Obligations.DispatchUdpArmTaken :=
  fun s t hp ht h => ⟨_, _, portsOf_read s.frameByte t.toNat, exec_dispatchUdp_of_fits hp ht h⟩

theorem exec_dispatchElse (s : State) : exec .dispatchElse s = .next (s.raise .unsupportedOrTruncated) := rfl

/-- Settles O31: the failure arm raises whatever the state. -/
theorem dispatchElseRaises : Obligations.DispatchElseRaises := by
  intro s
  rw [exec_dispatchElse, raise_unsupported_eq_finishedWith]

/-! ## The dispatch with the six IP values held: it completes, or the next row is tried -/

/-- The outcome completes the decode of `s` with one of the reports of rule R114. -/
def Completes (s : State) (o : Host.Outcome State Fault Refusal) : Prop :=
  ∃ rep : Report, rep.Consistent ∧ o = .next (s.complete rep)

/-- Completing a decode drops the places that were left. -/
theorem Completes.of_continueAt {s : State} {ps : List Place} {o : Host.Outcome State Fault Refusal}
    (h : Completes (s.continueAt ps) o) : Completes s o := h

/-- As the dispatch finds the state: the six IP values are held and nothing else, and `TOFF` exists. -/
structure State.ReadyToDispatch (s : State) (ip : IpFields) : Prop where
  rpt  : s.rpt = Rpt.empty.withIp ip
  toff : ∃ t, s.toff = some t

theorem State.ReadyToDispatch.proto {s : State} {ip : IpFields} (h : s.ReadyToDispatch ip) :
    s.rpt.proto = some ip.proto := by
  rw [h.rpt]
  rfl

theorem State.ReadyToDispatch.continueAt {s : State} {ip : IpFields} (h : s.ReadyToDispatch ip) (ps : List Place) :
    (s.continueAt ps).ReadyToDispatch ip :=
  ⟨h.rpt, h.toff⟩

theorem exec_dispatchElse_completes {s : State} {ip : IpFields} (h : s.ReadyToDispatch ip) :
    Completes s (exec .dispatchElse s) :=
  ⟨.unsupported ip, trivial, congrArg _ (raise_unsupported h.rpt)⟩

theorem exec_dispatchTcp_completes_or_falls {s : State} {ip : IpFields} (h : s.ReadyToDispatch ip)
    (hp : ip.proto = 6) :
    Completes s (exec .dispatchTcp s)
      ∨ ∃ fit, exec .dispatchTcp s = .next ((s.setTcpFit fit).continueAt [.udpRow]) := by
  obtain ⟨t, ht⟩ := h.toff
  by_cases hfit : t.toNat + 20 ≤ s.flen.toNat
  · refine .inl ⟨.tcp ip (sourcePortAt s.frameByte t.toNat) (destPortAt s.frameByte t.toNat), hp, ?_⟩
    rw [exec_dispatchTcp_of_fits (hp ▸ h.proto) ht hfit, h.rpt]
    rfl
  · exact .inr ⟨_, (execDispatchTcp_eq h.proto ht).trans (if_neg fun hc => hfit hc.2)⟩

theorem exec_dispatchUdp_completes_or_falls {s : State} {ip : IpFields} (h : s.ReadyToDispatch ip)
    (hp : ip.proto = 17) :
    Completes s (exec .dispatchUdp s)
      ∨ ∃ fit, exec .dispatchUdp s = .next ((s.setUdpFit fit).continueAt [.elseRow]) := by
  obtain ⟨t, ht⟩ := h.toff
  by_cases hfit : t.toNat + 8 ≤ s.flen.toNat
  · refine .inl ⟨.udp ip (sourcePortAt s.frameByte t.toNat) (destPortAt s.frameByte t.toNat), hp, ?_⟩
    rw [exec_dispatchUdp_of_fits (hp ▸ h.proto) ht hfit, h.rpt]
    rfl
  · exact .inr ⟨_, (execDispatchUdp_eq h.proto ht).trans (if_neg fun hc => hfit hc.2)⟩

/-- The block's move at a row of the dispatch is the arm that the protocol selects. -/
theorem blockMoves_at_row {s : State} {ip : IpFields} {row : Place} {i : Instr} (h : s.ReadyToDispatch ip)
    (htodo : s.todo = [row]) (hsel : decodeAt row (some ip.proto) = .ok i) :
    blockMoves s = exec i (s.continueAt []) :=
  blockMoves_at htodo (h.proto ▸ hsel)

/-! ## A decode that ends within a number of steps -/

/-- At most `n` steps lead to a state with no decode in progress and `RV` = 1. -/
def State.EndsWithin (n : Nat) (s : State) : Prop :=
  ∃ k t, k ≤ n ∧ runSteps k s = .next t ∧ t.Idle ∧ t.rpt.rv = true

theorem State.EndsWithin.mono {m n : Nat} {s : State} (h : s.EndsWithin m) (hmn : m ≤ n) : s.EndsWithin n := by
  obtain ⟨k, t, hk, hrun⟩ := h
  exact ⟨k, t, Nat.le_trans hk hmn, hrun⟩

/-- Every report of rule R114 has `RV` = 1. -/
theorem Report.toRpt_rv (rep : Report) : rep.toRpt.rv = true := by
  cases rep <;> rfl

theorem State.EndsWithin.of_completes {s : State} (hin : s.inputs = []) (h : Completes s (blockMoves s)) :
    s.EndsWithin 1 := by
  obtain ⟨rep, -, hmove⟩ := h
  exact ⟨1, _, Nat.le_refl 1, runSteps_of_step ((step_of_no_input hin).trans hmove), ⟨rfl, rfl, rfl, rfl⟩,
    rep.toRpt_rv⟩

theorem State.EndsWithin.of_move {n : Nat} {s t : State} (hin : s.inputs = []) (hmove : blockMoves s = .next t)
    (h : t.EndsWithin n) : s.EndsWithin (n + 1) := by
  obtain ⟨k, u, hk, hrun, hu⟩ := h
  exact ⟨k + 1, u, Nat.succ_le_succ hk, (runSteps_of_step ((step_of_no_input hin).trans hmove)).trans hrun, hu⟩

/-! ## The rows of the dispatch: at most two are tried (rules R54, R62) -/

/-- The failure row selected, from whichever row on. -/
theorem endsWithin_of_dispatchElse {s : State} {ip : IpFields} (h : s.ReadyToDispatch ip) (hin : s.inputs = [])
    (hmove : blockMoves s = exec .dispatchElse (s.continueAt [])) : s.EndsWithin 1 := by
  refine .of_completes hin ?_
  rw [hmove]
  exact (exec_dispatchElse_completes (h.continueAt [])).of_continueAt

theorem endsWithin_elseRow {s : State} {ip : IpFields} (h : s.ReadyToDispatch ip) (hin : s.inputs = [])
    (htodo : s.todo = [.elseRow]) : s.EndsWithin 1 :=
  endsWithin_of_dispatchElse h hin (blockMoves_at_row h htodo (selectFrom_of_selectRow (selectRow_elseRow _)))

/-- The row UDP selected, from whichever row on: it completes the decode or leaves the failure row. -/
theorem endsWithin_of_dispatchUdp {s : State} {ip : IpFields} (h : s.ReadyToDispatch ip) (hin : s.inputs = [])
    (hp : ip.proto = 17) (hmove : blockMoves s = exec .dispatchUdp (s.continueAt [])) : s.EndsWithin 2 := by
  obtain hdone | ⟨fit, hfalls⟩ := exec_dispatchUdp_completes_or_falls (h.continueAt []) hp
  · exact (State.EndsWithin.of_completes hin (hmove ▸ hdone.of_continueAt)).mono (by decide)
  · exact .of_move hin (hmove.trans hfalls) (endsWithin_elseRow ⟨h.rpt, h.toff⟩ hin rfl)

theorem endsWithin_udpRow_of_ne {s : State} {ip : IpFields} (h : s.ReadyToDispatch ip) (hin : s.inputs = [])
    (htodo : s.todo = [.udpRow]) (hp : ip.proto ≠ 17) : s.EndsWithin 1 := by
  have hmove := blockMoves_at_row h htodo (selectFrom_of_selectRow (selectRow_udpRow _))
  rw [if_neg hp] at hmove
  exact endsWithin_of_dispatchElse h hin hmove

theorem endsWithin_udpRow {s : State} {ip : IpFields} (h : s.ReadyToDispatch ip) (hin : s.inputs = [])
    (htodo : s.todo = [.udpRow]) : s.EndsWithin 2 := by
  by_cases hp : ip.proto = 17
  · have hmove := blockMoves_at_row h htodo (selectFrom_of_selectRow (selectRow_udpRow _))
    rw [if_pos hp] at hmove
    exact endsWithin_of_dispatchUdp h hin hp hmove
  · exact (endsWithin_udpRow_of_ne h hin htodo hp).mono (by decide)

/-- One protocol byte selects one of the two arms, so a TCP arm that falls through leaves the failure row alone. -/
theorem endsWithin_tcpRow {s : State} {ip : IpFields} (h : s.ReadyToDispatch ip) (hin : s.inputs = [])
    (htodo : s.todo = [.tcpRow]) : s.EndsWithin 2 := by
  have hmove := blockMoves_at_row h htodo (selectFrom_of_selectRow (selectRow_tcpRow _))
  split at hmove
  · next htcp =>
    obtain hdone | ⟨fit, hfalls⟩ := exec_dispatchTcp_completes_or_falls (h.continueAt []) htcp
    · exact (State.EndsWithin.of_completes hin (hmove ▸ hdone.of_continueAt)).mono (by decide)
    · have hne : ip.proto ≠ 17 := by rw [htcp]; decide
      exact .of_move hin (hmove.trans hfalls) (endsWithin_udpRow_of_ne ⟨h.rpt, h.toff⟩ hin rfl hne)
  · split at hmove
    · next hudp => exact endsWithin_of_dispatchUdp h hin hudp hmove
    · exact (endsWithin_of_dispatchElse h hin hmove).mono (by decide)

/-- After a row has fallen through at most two steps are left. -/
theorem State.AtLaterRow.endsWithin_two {s : State} (h : s.AtLaterRow) (hin : s.inputs = []) : s.EndsWithin 2 := by
  obtain ⟨hrow, -, hrpt, htoff⟩ := h
  have hready : s.ReadyToDispatch (ipFieldsOf s.frameByte) := ⟨hrpt, _, htoff⟩
  obtain hudp | helse := hrow
  · exact endsWithin_udpRow hready hin hudp
  · exact (endsWithin_elseRow hready hin helse).mono (by decide)

/-! ## The places in the fixed order (rules R17, R62) -/

theorem placesAfterOffset_of_check {b : Config.Build} (hb : b.ihlMinCheck = true) :
    placesAfterOffset b = [.ihlCheck, .tcpRow] :=
  if_pos hb

theorem length_decodePlaces (b : Config.Build) : (decodePlaces b).length = if b.ihlMinCheck then 10 else 9 := by
  cases h : b.ihlMinCheck <;> simp [decodePlaces, placesAfterGuard, placesAfterOffset, h]

theorem length_decodePlaces_le (b : Config.Build) : (decodePlaces b).length ≤ 10 := by
  rw [length_decodePlaces]
  split <;> decide

theorem lt_length_decodePlaces {done : Nat} (h : done ≤ 8) (b : Config.Build) : done < (decodePlaces b).length := by
  rw [length_decodePlaces]
  split <;> omega

/-- The dispatch is the last place. -/
theorem drop_decodePlaces_of_last {b : Config.Build} {done : Nat} (h : done + 1 = (decodePlaces b).length) :
    8 ≤ done ∧ (decodePlaces b).drop done = [.tcpRow] := by
  rw [length_decodePlaces] at h
  split at h
  · next hb =>
    obtain rfl : done = 9 := Nat.succ.inj h
    exact ⟨by decide, congrArg (·.drop 1) (placesAfterOffset_of_check hb)⟩
  · next hb =>
    obtain rfl : done = 8 := Nat.succ.inj h
    exact ⟨by decide, if_neg hb⟩

theorem partialRpt_of_le (ip : IpFields) {done : Nat} (h : 8 ≤ done) : partialRpt ip done = Rpt.empty.withIp ip := by
  have hpassed {k : Nat} (hk : k ≤ 7) : k ≤ done := by omega
  simp [partialRpt, Rpt.withIp, hpassed]

theorem State.AtPlace.lt_length {s : State} {done : Nat} (h : s.AtPlace done) : done < (decodePlaces s.build).length :=
  h.1

theorem State.AtPlace.todo_eq {s : State} {done : Nat} (h : s.AtPlace done) :
    s.todo = (decodePlaces s.build).drop done :=
  h.2.1

theorem State.AtPlace.readyToDispatch {s : State} {done : Nat} (h : s.AtPlace done) (hdone : 8 ≤ done) :
    s.ReadyToDispatch (ipFieldsOf s.frameByte) := by
  obtain ⟨-, -, -, hrpt, htoff, -⟩ := h
  exact ⟨hrpt.trans (partialRpt_of_le _ hdone), _, htoff.trans (if_pos hdone)⟩

theorem State.AtPlace.blockMoves_eq {s : State} {done : Nat} {p : Place} {i : Instr} (h : s.AtPlace done)
    (hp : (decodePlaces s.build)[done]? = some p) (hsel : decodeAt p s.rpt.proto = .ok i) :
    blockMoves s = exec i (s.continueAt ((decodePlaces s.build).drop (done + 1))) := by
  obtain ⟨hlt, rfl⟩ := List.getElem?_eq_some_iff.1 hp
  exact blockMoves_at (h.todo_eq.trans (List.drop_eq_getElem_cons hlt)) hsel

/-- The block's move leads to the next place, or completes the decode. -/
def State.Advances (s : State) (done : Nat) : Prop :=
  Completes s (blockMoves s) ∨ ∃ t, blockMoves s = .next t ∧ t.AtPlace (done + 1)

theorem State.AtPlace.advances_at_guard {s : State} (h : s.AtPlace 0) : s.Advances 0 := by
  have hmove := h.blockMoves_eq rfl rfl
  obtain ⟨-, -, -, hrpt, htoff, hfits⟩ := h
  obtain hlt | hle := Nat.lt_or_ge s.flen.toNat 20
  · exact .inl ⟨.tooShort, trivial, hmove.trans (exec_lenguard_of_lt hlt)⟩
  · exact .inr ⟨_, hmove.trans (exec_lenguard_of_le hle), lt_length_decodePlaces (by decide) s.build, rfl,
      fun _ => hle, hrpt, htoff, hfits⟩

/-- A place of step 2: its extraction is the place's part of the report. -/
theorem State.AtPlace.advances_of_extract {s : State} {done : Nat} {p : Place} {i : Instr} (h : s.AtPlace done)
    (hfrom : 1 ≤ done) (hto : done ≤ 6) (hp : (decodePlaces s.build)[done]? = some p)
    (hsel : decodeAt p s.rpt.proto = .ok i) (hi : i ∈ step2Instrs)
    (hpart : ∀ ip, (partialRpt ip done).extract ip i = partialRpt ip (done + 1)) : s.Advances done := by
  have hmove := h.blockMoves_eq hp hsel
  obtain ⟨-, -, hlen, hrpt, htoff, hfits⟩ := h
  have hpart' : s.rpt.extract (ipFieldsOf s.frameByte) i = partialRpt (ipFieldsOf s.frameByte) (done + 1) := by
    rw [hrpt, hpart]
  have htoff' : s.toff = if 8 ≤ done + 1 then some (transportOffset (ipFieldsOf s.frameByte).ihl) else none := by
    rw [htoff, if_neg (by omega), if_neg (by omega)]
  exact .inr ⟨_, hmove.trans (exec_of_mem_step2Instrs (hlen hfrom) hi), lt_length_decodePlaces (by omega) s.build, rfl,
    fun _ => hlen hfrom, hpart', htoff', hfits⟩

theorem State.AtPlace.advances_in_step2 {s : State} {done : Nat} (h : s.AtPlace done) (hfrom : 1 ≤ done)
    (hto : done ≤ 6) : s.Advances done := by
  obtain rfl | rfl | rfl | rfl | rfl | rfl : done = 1 ∨ done = 2 ∨ done = 3 ∨ done = 4 ∨ done = 5 ∨ done = 6 := by omega
  · exact h.advances_of_extract (i := .xver) hfrom hto rfl rfl (by decide) fun _ => rfl
  · exact h.advances_of_extract (i := .xihl) hfrom hto rfl rfl (by decide) fun _ => rfl
  · exact h.advances_of_extract (i := .xtotlen) hfrom hto rfl rfl (by decide) fun _ => rfl
  · exact h.advances_of_extract (i := .xproto) hfrom hto rfl rfl (by decide) fun _ => rfl
  · exact h.advances_of_extract (i := .xsrc) hfrom hto rfl rfl (by decide) fun _ => rfl
  · exact h.advances_of_extract (i := .xdst) hfrom hto rfl rfl (by decide) fun _ => rfl

theorem State.AtPlace.advances_at_offset {s : State} (h : s.AtPlace 7) : s.Advances 7 := by
  have hmove := h.blockMoves_eq rfl rfl
  obtain ⟨-, -, hlen, hrpt, -, hfits⟩ := h
  have hihl : s.rpt.ihl = some (ipFieldsOf s.frameByte).ihl := hrpt ▸ rfl
  exact .inr ⟨_, hmove.trans (exec_toffcalc_of_ihl hihl), lt_length_decodePlaces (by decide) s.build, rfl,
    fun _ => hlen (by decide), hrpt, rfl, hfits⟩

/-- In the build that has it `IHLCHK` stands between the offset and the dispatch (rule R92). -/
theorem State.AtPlace.advances_at_ihlCheck {s : State} (h : s.AtPlace 8) (hb : s.build.ihlMinCheck = true) :
    s.Advances 8 := by
  have hafter := placesAfterOffset_of_check hb
  have hplace : (decodePlaces s.build)[8]? = some .ihlCheck := congrArg (·[0]?) hafter
  have hmove := h.blockMoves_eq hplace rfl
  obtain ⟨-, -, hlen, hrpt, htoff, hfits⟩ := h
  have hihl : s.rpt.ihl = some (ipFieldsOf s.frameByte).ihl := hrpt ▸ rfl
  obtain hlt | hle := Nat.lt_or_ge (ipFieldsOf s.frameByte).ihl.toNat 5
  · exact .inl ⟨.unsupported (ipFieldsOf s.frameByte), trivial,
      (hmove.trans (exec_ihlchk_of_lt hb hihl hlt)).trans (congrArg _ (raise_unsupported (s := s.continueAt _) hrpt))⟩
  · have hlast : 9 < (decodePlaces s.build).length := by rw [length_decodePlaces, if_pos hb]; decide
    exact .inr ⟨_, hmove.trans (exec_ihlchk_of_le hb hihl hle), hlast, (congrArg (·.drop 1) hafter).symm,
      fun _ => hlen (by decide), hrpt, htoff, hfits⟩

/-- Every place but the last is followed by the next one, or ends the decode. -/
theorem State.AtPlace.advances {s : State} {done : Nat} (h : s.AtPlace done)
    (hnext : done + 1 < (decodePlaces s.build).length) : s.Advances done := by
  rw [length_decodePlaces] at hnext
  obtain rfl | ⟨hfrom, hto⟩ | rfl | hge : done = 0 ∨ (1 ≤ done ∧ done ≤ 6) ∨ done = 7 ∨ 8 ≤ done := by omega
  · exact h.advances_at_guard
  · exact h.advances_in_step2 hfrom hto
  · exact h.advances_at_offset
  · split at hnext
    · next hb =>
      obtain rfl : done = 8 := by omega
      exact h.advances_at_ihlCheck hb
    · omega

/-- The block's own move takes nothing from the environment and leaves the build. -/
theorem blockMoves_keeps {s t : State} (h : blockMoves s = .next t) : t.inputs = s.inputs ∧ t.build = s.build := by
  unfold blockMoves at h
  split at h
  · cases h
    exact ⟨rfl, rfl⟩
  · obtain ⟨i, -, hexec⟩ := withOperand_eq_next.1 h
    obtain ⟨-, -, hbuild, hinputs, -⟩ := (exec_cases hexec).keeps_frame
    exact ⟨hinputs, hbuild⟩

/-- With `left` places after the present one, at most `left + 2` steps are left: the dispatch may try two rows. -/
theorem State.AtPlace.endsWithin {s : State} {done left : Nat} (h : s.AtPlace done) (hin : s.inputs = [])
    (hleft : done + 1 + left = (decodePlaces s.build).length) : s.EndsWithin (left + 2) := by
  induction left generalizing s done with
  | zero =>
    obtain ⟨hdone, hlast⟩ := drop_decodePlaces_of_last hleft
    exact endsWithin_tcpRow (h.readyToDispatch hdone) hin (h.todo_eq.trans hlast)
  | succ left ih =>
    obtain hdone | ⟨t, hmove, ht⟩ := h.advances (by omega)
    · exact (State.EndsWithin.of_completes hin hdone).mono (by omega)
    · obtain ⟨hinputs, hbuild⟩ := blockMoves_keeps hmove
      exact .of_move hin hmove (ih ht (hinputs.trans hin) (by rw [hbuild]; omega))

/-- Settles O6: the longest course is the ten places of the build with `IHLCHK` and one row more of the dispatch. -/
theorem decodeEndsWithinElevenSteps : Obligations.DecodeEndsWithinElevenSteps := by
  intro s hdec hin
  obtain ⟨done, hplace⟩ | hrow := hdec
  · have hle := length_decodePlaces_le s.build
    obtain ⟨left, hleft⟩ := Nat.exists_eq_add_of_le (Nat.succ_le_of_lt hplace.lt_length)
    exact (hplace.endsWithin hin hleft.symm).mono (by omega)
  · exact (hrow.endsWithin_two hin).mono (by decide)

end Sys2Proof.Machine
end

section
/-! PROOFS. The port extractor: what each of the two extractions answers, the flag they set together in either order,
and the ports of a frame whose header is shorter than 20 bytes (43_transport_ports.md R100 to R103). -/

namespace Sys2Proof.Machine

/-! ## The two extractions with their bytes inside the frame (rules R100, R101) -/

theorem exec_xsport_of_le {s : State} {t : BitVec 6} (ht : s.toff = some t) (h : t.toNat + 2 ≤ s.flen.toNat) :
    exec .xsport s =
      .next (s.setRpt (Rpt.groupL4v { s.rpt with sport := some (sourcePortAt s.frameByte t.toNat) })) :=
  (withOperand_of_ok (needToff_eq_ok.2 ht)).trans (withOperand_of_ok (readBe16_of_le h))

theorem exec_xdport_of_le {s : State} {t : BitVec 6} (ht : s.toff = some t) (h : t.toNat + 4 ≤ s.flen.toNat) :
    exec .xdport s =
      .next (s.setRpt (Rpt.groupL4v { s.rpt with dport := some (destPortAt s.frameByte t.toNat) })) :=
  (withOperand_of_ok (needToff_eq_ok.2 ht)).trans (withOperand_of_ok (readBe16_of_le h))

/-- The pair leaves `L4V` as it is or sets it. -/
theorem Rpt.groupL4v_l4v_or (r : Rpt) : r.groupL4v.l4v = r.l4v ∨ r.groupL4v.l4v = some true := by
  rw [Rpt.groupL4v_l4v]
  split
  · exact .inr rfl
  · exact .inl rfl

/-- Settles O32: the source port of format `L4P` at `TOFF`, and the pair's flag. -/
theorem xsportHoldsSourcePort : Obligations.XsportHoldsSourcePort :=
  fun s _ ht h => ⟨_, _, be16_toNat _ _, Rpt.groupL4v_l4v_or { s.rpt with sport := some _ }, exec_xsport_of_le ht h⟩

/-- Settles O33: the destination port of format `L4P` at `TOFF`, and the pair's flag. -/
theorem xdportHoldsDestinationPort : Obligations.XdportHoldsDestinationPort :=
  fun s _ ht h => ⟨_, _, be16_toNat _ _, Rpt.groupL4v_l4v_or { s.rpt with dport := some _ }, exec_xdport_of_le ht h⟩

/-! ## The two in either order (rule R102) -/

/-- The report with both ports held and the pair's flag set. -/
def Rpt.withPorts (r : Rpt) (sport dport : BitVec 16) : Rpt :=
  { r with sport := some sport, dport := some dport, l4v := some true }

/-- Whichever port comes second completes the pair. -/
theorem Rpt.groupL4v_sport_dport (r : Rpt) (sport dport : BitVec 16) :
    Rpt.groupL4v { Rpt.groupL4v { r with sport := some sport } with dport := some dport } = r.withPorts sport dport :=
  rfl

theorem Rpt.groupL4v_dport_sport (r : Rpt) (sport dport : BitVec 16) :
    Rpt.groupL4v { Rpt.groupL4v { r with dport := some dport } with sport := some sport } = r.withPorts sport dport :=
  rfl

theorem execAll_pair_of_next {i j : Instr} {s s' s'' : State} (hi : exec i s = .next s') (hj : exec j s' = .next s'') :
    execAll [i, j] s = .next s'' := by
  simp only [execAll, hi, hj]

/-- The first extraction leaves `TOFF`, the frame and its length, so the second reads from the same base. -/
theorem execAll_xsport_xdport {s : State} {t : BitVec 6} (ht : s.toff = some t) (h : t.toNat + 4 ≤ s.flen.toNat) :
    execAll [.xsport, .xdport] s =
      .next (s.setRpt (s.rpt.withPorts (sourcePortAt s.frameByte t.toNat) (destPortAt s.frameByte t.toNat))) := by
  rw [← Rpt.groupL4v_sport_dport]
  exact execAll_pair_of_next (exec_xsport_of_le ht (by omega)) (exec_xdport_of_le ht h)

theorem execAll_xdport_xsport {s : State} {t : BitVec 6} (ht : s.toff = some t) (h : t.toNat + 4 ≤ s.flen.toNat) :
    execAll [.xdport, .xsport] s =
      .next (s.setRpt (s.rpt.withPorts (sourcePortAt s.frameByte t.toNat) (destPortAt s.frameByte t.toNat))) := by
  have hsource : t.toNat + 2 ≤ s.flen.toNat := by omega
  rw [← Rpt.groupL4v_dport_sport]
  exact execAll_pair_of_next (exec_xdport_of_le ht h) (exec_xsport_of_le ht hsource)

/-- A sequence of the two extractions begins with one of them, and the other is all that is left. -/
theorem eq_of_perm_ports {is : List Instr} (h : is.Perm [.xsport, .xdport]) :
    is = [.xsport, .xdport] ∨ is = [.xdport, .xsport] := by
  cases is with
  | nil => exact absurd h.length_eq (by decide)
  | cons i is =>
    obtain ⟨hi, his⟩ := List.cons_perm_iff_perm_erase.1 h
    simp only [List.mem_cons, List.not_mem_nil, or_false] at hi
    obtain rfl | rfl := hi
    · have hrest : is.Perm [.xdport] := his
      exact .inl (congrArg (Instr.xsport :: ·) hrest.eq_singleton)
    · have hrest : is.Perm [.xsport] := his
      exact .inr (congrArg (Instr.xdport :: ·) hrest.eq_singleton)

/-- Settles O55: a sequence of the two is one of the two orders, and each ends in `Rpt.withPorts`. -/
theorem portsOrderDoesNotMatter : Obligations.PortsOrderDoesNotMatter := by
  intro s t is ht h hperm
  refine ⟨_, _, portsOf_read s.frameByte t.toNat, ?_⟩
  obtain rfl | rfl := eq_of_perm_ports hperm
  · exact execAll_xsport_xdport ht h
  · exact execAll_xdport_xsport ht h

/-! ## Ports over the bytes of the header (rule R103) -/

theorem exec_decode (s : State) :
    exec .decode s = .next (s.complete (decodeFrame s.build.ihlMinCheck s.frameByte s.flen.toNat)) := rfl

/-- Some arm of the dispatch is taken: the protocol is its own and the transport header fits (rules R71, R72, R91). -/
def TransportFits (ip : IpFields) (n : Nat) : Prop :=
  ip.proto = 6 ∧ ip.ihl.toNat * 4 + 20 ≤ n ∨ ip.proto = 17 ∧ ip.ihl.toNat * 4 + 8 ≤ n

/-- The arm taken, whichever it is, reports the two ports at `TOFF`. -/
theorem dispatchReport_of_fits (F : Nat → Byte) {n : Nat} {ip : IpFields} (h : TransportFits ip n) :
    ∃ k, (dispatchReport F n ip).toRpt = rptRow .decoded true true (some k) (some ip)
      (some (sourcePortAt F (ip.ihl.toNat * 4), destPortAt F (ip.ihl.toNat * 4))) := by
  rw [dispatchReport_eq]
  obtain htcp | hudp := h
  · rw [if_pos htcp]
    exact ⟨.tcp, rfl⟩
  · rw [if_neg (by simp [hudp.1]), if_pos hudp]
    exact ⟨.udp, rfl⟩

theorem dispatchReport_of_not_fits (F : Nat → Byte) {n : Nat} {ip : IpFields} (h : ¬ TransportFits ip n) :
    dispatchReport F n ip = .unsupported ip := by
  rw [dispatchReport_eq, if_neg fun htcp => h (.inl htcp), if_neg fun hudp => h (.inr hudp)]

/-- In the default build the header length is not tested (rule R92). -/
theorem decodeFrame_of_no_check (F : Nat → Byte) {n : Nat} (hn : 20 ≤ n) :
    decodeFrame false F n = dispatchReport F n (ipFieldsOf F) := by
  rw [decodeFrame_of_le _ _ hn, if_neg (by simp)]

/-- A short header is reported as unsupported by the test of the checking build, and in the default build when no arm
is taken. -/
theorem decodeFrame_of_short_not_fits {chk : Bool} {F : Nat → Byte} {n : Nat} (hn : 20 ≤ n)
    (hihl : (ipFieldsOf F).ihl.toNat < 5) (h : ¬ (chk = false ∧ TransportFits (ipFieldsOf F) n)) :
    decodeFrame chk F n = .unsupported (ipFieldsOf F) := by
  cases chk with
  | false => rw [decodeFrame_of_no_check F hn, dispatchReport_of_not_fits F fun hfits => h ⟨rfl, hfits⟩]
  | true => rw [decodeFrame_of_le _ _ hn, if_pos ⟨rfl, hihl⟩]

/-- Settles O41: the row of R114 for a decoded frame, whose ports at `TOFF` = 4k are read against the header's own
layout (R51), and the unsupported row in every other case. -/
theorem shortHeaderPortsOverlapIpHeader : Obligations.ShortHeaderPortsOverlapIpHeader := by
  intro s k hk hbyte hlen
  have hihl : (ipFieldsOf s.frameByte).ihl.toNat = k := (loNibble_toNat _).trans hbyte
  have hfits_iff : TransportFits (ipFieldsOf s.frameByte) s.flen.toNat ↔
      (s.frameByte 9 = 6 ∧ 4 * k + 20 ≤ s.flen.toNat ∨ s.frameByte 9 = 17 ∧ 4 * k + 8 ≤ s.flen.toNat) := by
    rw [TransportFits, hihl, Nat.mul_comm]
    rfl
  rw [← hfits_iff]
  constructor
  · rintro ⟨hbuild, hfits⟩
    obtain ⟨kind, hrow⟩ := dispatchReport_of_fits s.frameByte hfits
    rw [hihl, Nat.mul_comm] at hrow
    refine ⟨_, sourcePortAt s.frameByte (4 * k), destPortAt s.frameByte (4 * k), exec_decode s, ?_⟩
    rw [State.complete_rpt, hbuild, decodeFrame_of_no_check _ hlen, hrow]
    refine ⟨rfl, rfl, rfl, rfl, rfl, ?totlen, ?proto, ?src, ?dst⟩
    case totlen =>
      rintro rfl
      rfl
    case proto =>
      rintro rfl
      exact congrArg some BitVec.extractLsb'_append_eq_right.symm
    case src =>
      rintro rfl
      exact ⟨_, rfl, rfl, rfl⟩
    case dst =>
      rintro rfl
      exact ⟨_, rfl, rfl, rfl⟩
  · intro h
    refine ⟨_, exec_decode s, ?_⟩
    rw [State.complete_rpt, decodeFrame_of_short_not_fits hlen (by omega) h]
    rfl

end Sys2Proof.Machine
end

section
/-! PROOFS. The whole decode: its report row by row, the bytes it is a function of, and a stream of frames each
reported alone (44_decode_top.md R110 to R114). -/

namespace Sys2Proof.Machine

/-! ## The report table (rules R110, R114) -/

/-- Completing with a report puts its register view in place and changes nothing but what lives only inside a decode. -/
theorem State.complete_eq_finishedWith (s : State) (rep : Report) : s.complete rep = s.finishedWith rep.toRpt := rfl

/-- The register view of what the dispatch reports, arm by arm (rule R91). -/
theorem toRpt_dispatchReport (F : Nat → Byte) (n : Nat) (ip : IpFields) :
    (dispatchReport F n ip).toRpt =
      if ip.proto = 6 ∧ ip.ihl.toNat * 4 + 20 ≤ n then
        rptRow .decoded true true (some .tcp) (some ip)
          (some (sourcePortAt F (ip.ihl.toNat * 4), destPortAt F (ip.ihl.toNat * 4)))
      else if ip.proto = 17 ∧ ip.ihl.toNat * 4 + 8 ≤ n then
        rptRow .decoded true true (some .udp) (some ip)
          (some (sourcePortAt F (ip.ihl.toNat * 4), destPortAt F (ip.ihl.toNat * 4)))
      else rptRow .unsupportedOrTruncated true false none (some ip) none := by
  rw [dispatchReport_eq, apply_ite Report.toRpt, apply_ite Report.toRpt]
  rfl

/-- Settles O39: the length guard, the optional test and the dispatch, each with the row it ends in. -/
theorem decodeFollowsTheAlgorithm : Obligations.DecodeFollowsTheAlgorithm := by
  intro s
  refine ⟨ipFieldsOf s.frameByte, ipFieldsOf_read _, _, _, portsOf_read _ _, ?_⟩
  rw [exec_decode, State.complete_eq_finishedWith, ← toRpt_dispatchReport]
  obtain hlt | hle := Nat.lt_or_ge s.flen.toNat 20
  · rw [decodeFrame_of_lt _ _ hlt, if_pos hlt]
    rfl
  · rw [decodeFrame_of_le _ _ hle, if_neg (Nat.not_lt.2 hle), apply_ite Report.toRpt]
    rfl

/-! ## The bytes a decode reads (rule R111) -/

/-- The dispatch reads the frame only for the ports it reports. -/
theorem dispatchReport_congr_of_portOffsets {F F' : Nat → Byte} {n : Nat} {ip : IpFields}
    (h : ∀ a ∈ (dispatchReport F n ip).portOffsets, F' a = F a) : dispatchReport F' n ip = dispatchReport F n ip := by
  by_cases hfits : TransportFits ip n
  · have hports : ∀ i < 4, F' (ip.ihl.toNat * 4 + i) = F (ip.ihl.toNat * 4 + i) := by
      have hoffsets : (dispatchReport F n ip).portOffsets = (List.range 4).map fun i => ip.ihl.toNat * 4 + i := by
        rw [dispatchReport_eq]
        split
        · rfl
        · next hntcp => rw [if_pos (hfits.resolve_left hntcp)]; rfl
      simpa only [hoffsets, List.forall_mem_map, List.mem_range] using h
    rw [dispatchReport_eq, dispatchReport_eq, sourcePortAt_congr hports, destPortAt_congr hports]
  · rw [dispatchReport_of_not_fits F hfits, dispatchReport_of_not_fits F' hfits]

/-- Frames that agree on the bytes a decode of the one reads are decoded into the same report. -/
theorem decodeFrame_congr_of_bytesRead {chk : Bool} {F F' : Nat → Byte} {n : Nat}
    (h : ∀ a ∈ bytesRead chk F n, F' a = F a) : decodeFrame chk F' n = decodeFrame chk F n := by
  obtain hlt | hle := Nat.lt_or_ge n 20
  · rw [decodeFrame_of_lt _ _ hlt, decodeFrame_of_lt _ _ hlt]
  · rw [bytesRead_of_le _ _ hle, List.forall_mem_append] at h
    obtain ⟨hheader, hports⟩ := h
    rw [decodeFrame_of_le _ _ hle] at hports
    rw [decodeFrame_of_le _ _ hle, decodeFrame_of_le _ _ hle, ipFieldsOf_congr hheader]
    split
    · rfl
    · next htest =>
      rw [if_neg htest] at hports
      exact dispatchReport_congr_of_portOffsets hports

/-- Settles O42: both decodes complete, with one report, and completing changes nothing else. -/
theorem reportDependsOnlyOnBytesRead : Obligations.ReportDependsOnlyOnBytesRead := by
  intro s s' hbuild hflen hbytes
  refine ⟨_, _, exec_decode s, exec_decode s', ?_, rfl⟩
  rw [State.complete_rpt, State.complete_rpt, hbuild, hflen, decodeFrame_congr_of_bytesRead hbytes]

/-! ## A stream of frames (rule R113) -/

/-- The present of a whole frame reports that frame alone and leaves the block free for the next input. -/
theorem step_present_whole {s : State} {frame : List Byte} {es : List Event}
    (hin : s.inputs = .present frame frame.length :: es) (ht : s.todo = []) (hf : frame.length ≤ 1500) :
    ∃ t, step s = .next t ∧ t.rpt = (decodeFrame s.build.ihlMinCheck (listByte frame) frame.length).toRpt
      ∧ t.todo = [] ∧ t.build = s.build ∧ t.inputs = es := by
  refine ⟨_, step_present hin ht hf hf, congrArg Report.toRpt (decodeFrame_congr _ fun a ha => ?_), rfl, rfl, rfl⟩
  rw [State.loadFrame_frameByte _ _ _ ha, listByte, List.getD_eq_getElem?_getD, List.getElem?_eq_getElem ha,
    Option.getD_some]

/-- Settles O45: by induction along the stream; each present leaves a state with no decode in progress, in the same
build and with the later frames before it. -/
theorem streamReportsEachFrameAlone : Obligations.StreamReportsEachFrameAlone := by
  intro s frames ht hlen hin k hk
  induction frames generalizing s k with
  | nil => cases hk
  | cons frame frames ih =>
    obtain ⟨hframe, hrest⟩ := List.forall_mem_cons.1 hlen
    obtain ⟨t, hstep, hrpt, htodo, hbuild, hinputs⟩ := step_present_whole hin ht hframe
    cases k with
    | zero => exact ⟨t, runSteps_of_step hstep, hrpt⟩
    | succ k =>
      obtain ⟨u, hrun, hlater⟩ := ih t htodo hrest hinputs k (Nat.lt_of_succ_lt_succ hk)
      exact ⟨u, (runSteps_of_step hstep).trans hrun, hbuild ▸ hlater⟩

end Sys2Proof.Machine
end

section
/-! PROOFS. A decode in progress is bound for one report, which no move of the block changes: so the block never stops by
itself, every step keeps the invariant, and the stepwise decode ends as the atomic one (44_decode_top.md R110, R112). -/

namespace Sys2Proof.Machine

/-! ## What a decode in progress is bound for (rules R91, R110) -/

/-- What the dispatch reports from the row `DISPATCH.UDP` on. -/
def udpRowReport (F : Nat → Byte) (n : Nat) (ip : IpFields) : Report :=
  if ip.proto = 17 ∧ ip.ihl.toNat * 4 + 8 ≤ n then
    .udp ip (sourcePortAt F (ip.ihl.toNat * 4)) (destPortAt F (ip.ihl.toNat * 4))
  else .unsupported ip

theorem dispatchReport_of_not_tcp (F : Nat → Byte) {n : Nat} {ip : IpFields}
    (h : ¬ (ip.proto = 6 ∧ ip.ihl.toNat * 4 + 20 ≤ n)) : dispatchReport F n ip = udpRowReport F n ip :=
  (dispatchReport_eq F n ip).trans (if_neg h)

/-- Step 2 and the offset are done, as every row of the dispatch finds them. -/
def State.HeaderRead (s : State) : Prop :=
  20 ≤ s.flen.toNat ∧ s.rpt = partialRpt (ipFieldsOf s.frameByte) 8
    ∧ s.toff = some (transportOffset (ipFieldsOf s.frameByte).ihl)

/-- The decode in progress ends with the report, unless the environment abandons it. The places before the dispatch are
bound for the whole decode's report, a row of the dispatch for what the rows from it on report. In the default build the
ninth place is the dispatch, and the two agree. -/
inductive State.BoundFor (s : State) : Report → Prop
  | beforeDispatch {done : Nat} : s.AtPlace done → done ≤ 8 →
      BoundFor s (decodeFrame s.build.ihlMinCheck s.frameByte s.flen.toNat)
  | tcpRow {done : Nat} : s.AtPlace done → done + 1 = (decodePlaces s.build).length →
      BoundFor s (dispatchReport s.frameByte s.flen.toNat (ipFieldsOf s.frameByte))
  | udpRow : s.todo = [.udpRow] → s.HeaderRead →
      BoundFor s (udpRowReport s.frameByte s.flen.toNat (ipFieldsOf s.frameByte))
  | elseRow : s.todo = [.elseRow] → s.HeaderRead → BoundFor s (.unsupported (ipFieldsOf s.frameByte))

/-- Every decode in progress is bound for some report. -/
theorem State.InDecode.boundFor {s : State} (h : s.InDecode) : ∃ rep, s.BoundFor rep := by
  obtain ⟨done, hplace⟩ | ⟨hudp | helse, hread⟩ := h
  · by_cases hdone : done ≤ 8
    · exact ⟨_, .beforeDispatch hplace hdone⟩
    · have hlt := hplace.lt_length
      have hle := length_decodePlaces_le s.build
      exact ⟨_, .tcpRow hplace (by omega)⟩
  · exact ⟨_, .udpRow hudp hread⟩
  · exact ⟨_, .elseRow helse hread⟩

theorem State.BoundFor.inDecode {s : State} {rep : Report} (h : s.BoundFor rep) : s.InDecode := by
  cases h with
  | beforeDispatch hplace _ => exact .inl ⟨_, hplace⟩
  | tcpRow hplace _ => exact .inl ⟨_, hplace⟩
  | udpRow htodo hread => exact .inr ⟨.inl htodo, hread⟩
  | elseRow htodo hread => exact .inr ⟨.inr htodo, hread⟩

theorem State.AtPlace.headerRead {s : State} {done : Nat} (h : s.AtPlace done) (hdone : 8 ≤ done) : s.HeaderRead := by
  obtain ⟨-, -, hlen, hrpt, htoff, -⟩ := h
  exact ⟨hlen (by omega), hrpt.trans (partialRpt_of_le _ hdone), htoff.trans (if_pos hdone)⟩

theorem State.AtPlace.flen_ge {s : State} {done : Nat} (h : s.AtPlace done) (hdone : 1 ≤ done) : 20 ≤ s.flen.toNat :=
  h.2.2.1 hdone

theorem State.AtPlace.ihl_eq {s : State} {done : Nat} (h : s.AtPlace done) (hdone : 3 ≤ done) :
    s.rpt.ihl = some (ipFieldsOf s.frameByte).ihl := by
  obtain ⟨-, -, -, hrpt, -⟩ := h
  rw [hrpt]
  exact if_pos hdone

/-! ## Every report a decode is bound for is consistent (rule R15) -/

/-- With 20 bytes the dispatch alone is the decode of the default build. -/
theorem dispatchReport_consistent (F : Nat → Byte) {n : Nat} (hn : 20 ≤ n) :
    (dispatchReport F n (ipFieldsOf F)).Consistent :=
  decodeFrame_of_no_check F hn ▸ decodeFrame_consistent false F n

theorem udpRowReport_consistent (F : Nat → Byte) (n : Nat) (ip : IpFields) : (udpRowReport F n ip).Consistent := by
  unfold udpRowReport
  split
  · next hudp => exact hudp.1
  · trivial

theorem State.BoundFor.consistent {s : State} {rep : Report} (h : s.BoundFor rep) : rep.Consistent := by
  cases h with
  | beforeDispatch _ _ => exact decodeFrame_consistent _ _ _
  | tcpRow hplace hlast =>
    exact dispatchReport_consistent _ (hplace.headerRead (drop_decodePlaces_of_last hlast).1).1
  | udpRow _ _ => exact udpRowReport_consistent _ _ _
  | elseRow _ _ => trivial

/-! ## The block's move at a row of the dispatch (rules R54, R91) -/

/-- The block's move completes the decode with the report, or leaves it bound for the same report. -/
def State.Progresses (s : State) (rep : Report) : Prop :=
  blockMoves s = .next (s.complete rep) ∨ ∃ t, blockMoves s = .next t ∧ t.BoundFor rep

theorem State.HeaderRead.readyToDispatch {s : State} (h : s.HeaderRead) :
    s.ReadyToDispatch (ipFieldsOf s.frameByte) := by
  obtain ⟨-, hrpt, htoff⟩ := h
  exact ⟨hrpt, _, htoff⟩

theorem State.HeaderRead.progresses_of_dispatchElse {s : State} (h : s.HeaderRead)
    (hmove : blockMoves s = exec .dispatchElse (s.continueAt [])) :
    s.Progresses (.unsupported (ipFieldsOf s.frameByte)) :=
  .inl (hmove.trans (congrArg _ (raise_unsupported (s := s.continueAt []) h.readyToDispatch.rpt)))

theorem State.HeaderRead.progresses_of_dispatchUdp {s : State} (h : s.HeaderRead)
    (hp : (ipFieldsOf s.frameByte).proto = 17) (hmove : blockMoves s = exec .dispatchUdp (s.continueAt [])) :
    s.Progresses (udpRowReport s.frameByte s.flen.toNat (ipFieldsOf s.frameByte)) := by
  have hproto := h.readyToDispatch.proto
  have ⟨_, hrpt, htoff⟩ := h
  by_cases hfit : (ipFieldsOf s.frameByte).ihl.toNat * 4 + 8 ≤ s.flen.toNat
  · left
    rw [hmove, udpRowReport, if_pos ⟨hp, hfit⟩,
      exec_dispatchUdp_of_fits (s := s.continueAt []) (hp ▸ hproto) htoff (by rwa [transportOffset_toNat]),
      transportOffset_toNat, State.continueAt_rpt, hrpt]
    rfl
  · right
    rw [udpRowReport, if_neg fun hudp => hfit hudp.2]
    refine ⟨_, hmove.trans ((execDispatchUdp_eq (s := s.continueAt []) hproto htoff).trans (if_neg fun hudp => ?_)),
      .elseRow rfl h⟩
    exact hfit (transportOffset_toNat _ ▸ hudp.2)

/-- The move at the row UDP, or at an earlier row that the protocol does not match. -/
theorem State.HeaderRead.progresses_of_udpRow {s : State} (h : s.HeaderRead)
    (hmove : blockMoves s = exec (if (ipFieldsOf s.frameByte).proto = 17 then .dispatchUdp else .dispatchElse)
      (s.continueAt [])) :
    s.Progresses (udpRowReport s.frameByte s.flen.toNat (ipFieldsOf s.frameByte)) := by
  by_cases hp : (ipFieldsOf s.frameByte).proto = 17
  · rw [if_pos hp] at hmove
    exact h.progresses_of_dispatchUdp hp hmove
  · rw [if_neg hp] at hmove
    rw [udpRowReport, if_neg fun hudp => hp hudp.1]
    exact h.progresses_of_dispatchElse hmove

theorem State.HeaderRead.progresses_of_dispatchTcp {s : State} (h : s.HeaderRead)
    (hp : (ipFieldsOf s.frameByte).proto = 6) (hmove : blockMoves s = exec .dispatchTcp (s.continueAt [])) :
    s.Progresses (dispatchReport s.frameByte s.flen.toNat (ipFieldsOf s.frameByte)) := by
  have hproto := h.readyToDispatch.proto
  have ⟨_, hrpt, htoff⟩ := h
  by_cases hfit : (ipFieldsOf s.frameByte).ihl.toNat * 4 + 20 ≤ s.flen.toNat
  · left
    rw [hmove, dispatchReport_eq, if_pos ⟨hp, hfit⟩,
      exec_dispatchTcp_of_fits (s := s.continueAt []) (hp ▸ hproto) htoff (by rwa [transportOffset_toNat]),
      transportOffset_toNat, State.continueAt_rpt, hrpt]
    rfl
  · right
    rw [dispatchReport_of_not_tcp _ fun htcp => hfit htcp.2]
    refine ⟨_, hmove.trans ((execDispatchTcp_eq (s := s.continueAt []) hproto htoff).trans (if_neg fun htcp => ?_)),
      .udpRow rfl h⟩
    exact hfit (transportOffset_toNat _ ▸ htcp.2)

theorem State.HeaderRead.progresses_at_tcpRow {s : State} (h : s.HeaderRead) (htodo : s.todo = [.tcpRow]) :
    s.Progresses (dispatchReport s.frameByte s.flen.toNat (ipFieldsOf s.frameByte)) := by
  have hmove := blockMoves_at_row h.readyToDispatch htodo (selectFrom_of_selectRow (selectRow_tcpRow _))
  by_cases hp : (ipFieldsOf s.frameByte).proto = 6
  · rw [if_pos hp] at hmove
    exact h.progresses_of_dispatchTcp hp hmove
  · rw [if_neg hp] at hmove
    rw [dispatchReport_of_not_tcp _ fun htcp => hp htcp.1]
    exact h.progresses_of_udpRow hmove

/-! ## The block's move at a place before the dispatch (rules R70, R86, R90, R92) -/

/-- A move after which places are left has led to the next place. -/
theorem State.Advances.atPlace {s t : State} {done : Nat} (h : s.Advances done) (hmove : blockMoves s = .next t)
    (hleft : t.todo ≠ []) : t.AtPlace (done + 1) := by
  obtain ⟨rep, -, hdone⟩ | ⟨u, hnext, hplace⟩ := h
  · cases hmove.symm.trans hdone
    exact absurd rfl hleft
  · cases hmove.symm.trans hnext
    exact hplace

theorem drop_decodePlaces_ne_nil (b : Config.Build) {done : Nat} (h : done ≤ 8) : (decodePlaces b).drop done ≠ [] :=
  fun hnil => Nat.not_le.2 (lt_length_decodePlaces h b) (List.drop_eq_nil_iff.1 hnil)

theorem State.AtPlace.progresses_at_guard {s : State} (h : s.AtPlace 0) :
    s.Progresses (decodeFrame s.build.ihlMinCheck s.frameByte s.flen.toNat) := by
  have hmove := h.blockMoves_eq rfl rfl
  obtain hlt | hle := Nat.lt_or_ge s.flen.toNat 20
  · rw [decodeFrame_of_lt _ _ hlt]
    exact .inl (hmove.trans (exec_lenguard_of_lt hlt))
  · have hmove := hmove.trans (exec_lenguard_of_le hle)
    exact .inr ⟨_, hmove, .beforeDispatch (h.advances_at_guard.atPlace hmove (List.cons_ne_nil _ _)) (by decide)⟩

/-- The places of step 2 are those of its six extractions. -/
theorem extraction_at_place {done : Nat} (hfrom : 1 ≤ done) (hto : done ≤ 6) (b : Config.Build) (proto : Option Byte) :
    ∃ p i, (decodePlaces b)[done]? = some p ∧ decodeAt p proto = .ok i ∧ i ∈ step2Instrs := by
  obtain rfl | rfl | rfl | rfl | rfl | rfl : done = 1 ∨ done = 2 ∨ done = 3 ∨ done = 4 ∨ done = 5 ∨ done = 6 := by omega
  all_goals exact ⟨_, _, rfl, rfl, by decide⟩

theorem State.AtPlace.progresses_in_step2 {s : State} {done : Nat} (h : s.AtPlace done) (hfrom : 1 ≤ done)
    (hto : done ≤ 6) : s.Progresses (decodeFrame s.build.ihlMinCheck s.frameByte s.flen.toNat) := by
  obtain ⟨p, i, hp, hsel, hi⟩ := extraction_at_place hfrom hto s.build s.rpt.proto
  have hmove := (h.blockMoves_eq hp hsel).trans (exec_of_mem_step2Instrs (h.flen_ge hfrom) hi)
  have hplace := (h.advances_in_step2 hfrom hto).atPlace hmove (drop_decodePlaces_ne_nil s.build (by omega))
  exact .inr ⟨_, hmove, .beforeDispatch hplace (by omega)⟩

theorem State.AtPlace.progresses_at_offset {s : State} (h : s.AtPlace 7) :
    s.Progresses (decodeFrame s.build.ihlMinCheck s.frameByte s.flen.toNat) := by
  have hmove := (h.blockMoves_eq rfl rfl).trans (exec_toffcalc_of_ihl (h.ihl_eq (by decide)))
  have hplace := h.advances_at_offset.atPlace hmove (drop_decodePlaces_ne_nil s.build (by decide))
  exact .inr ⟨_, hmove, .beforeDispatch hplace (by decide)⟩

theorem State.AtPlace.progresses_at_ihlCheck {s : State} (h : s.AtPlace 8) (hb : s.build.ihlMinCheck = true) :
    s.Progresses (decodeFrame s.build.ihlMinCheck s.frameByte s.flen.toNat) := by
  have hplace : (decodePlaces s.build)[8]? = some .ihlCheck := congrArg (·[0]?) (placesAfterOffset_of_check hb)
  have hmove := h.blockMoves_eq hplace rfl
  obtain ⟨hlen, hrpt, -⟩ := h.headerRead (by decide)
  have hihl := h.ihl_eq (by decide)
  rw [decodeFrame_of_le _ _ hlen]
  obtain hlt | hle := Nat.lt_or_ge (ipFieldsOf s.frameByte).ihl.toNat 5
  · rw [if_pos ⟨hb, hlt⟩]
    exact .inl ((hmove.trans (exec_ihlchk_of_lt hb hihl hlt)).trans
      (congrArg _ (raise_unsupported (s := s.continueAt _) hrpt)))
  · rw [if_neg fun htest => Nat.not_lt.2 hle htest.2]
    have hmove := hmove.trans (exec_ihlchk_of_le hb hihl hle)
    have hlast : 8 + 1 + 1 = (decodePlaces s.build).length := by rw [length_decodePlaces, if_pos hb]
    exact .inr ⟨_, hmove, .tcpRow ((h.advances_at_ihlCheck hb).atPlace hmove (List.cons_ne_nil _ _)) hlast⟩

theorem State.AtPlace.progresses_at_last {s : State} {done : Nat} (h : s.AtPlace done)
    (hlast : done + 1 = (decodePlaces s.build).length) :
    s.Progresses (dispatchReport s.frameByte s.flen.toNat (ipFieldsOf s.frameByte)) := by
  obtain ⟨hdone, htodo⟩ := drop_decodePlaces_of_last hlast
  exact (h.headerRead hdone).progresses_at_tcpRow (h.todo_eq.trans htodo)

theorem State.AtPlace.progresses {s : State} {done : Nat} (h : s.AtPlace done) (hdone : done ≤ 8) :
    s.Progresses (decodeFrame s.build.ihlMinCheck s.frameByte s.flen.toNat) := by
  obtain rfl | ⟨hfrom, hto⟩ | rfl | rfl : done = 0 ∨ (1 ≤ done ∧ done ≤ 6) ∨ done = 7 ∨ done = 8 := by omega
  · exact h.progresses_at_guard
  · exact h.progresses_in_step2 hfrom hto
  · exact h.progresses_at_offset
  · cases hb : s.build.ihlMinCheck with
    | true => exact hb ▸ h.progresses_at_ihlCheck hb
    | false =>
      rw [decodeFrame_of_no_check _ (h.headerRead (by decide)).1]
      exact h.progresses_at_last (by rw [length_decodePlaces, hb]; rfl)

/-- From every place the block moves, and towards the one report. -/
theorem State.BoundFor.progresses {s : State} {rep : Report} (h : s.BoundFor rep) : s.Progresses rep := by
  cases h with
  | beforeDispatch hplace hdone => exact hplace.progresses hdone
  | tcpRow hplace hlast => exact hplace.progresses_at_last hlast
  | udpRow htodo hread =>
    exact hread.progresses_of_udpRow
      (blockMoves_at_row hread.readyToDispatch htodo (selectFrom_of_selectRow (selectRow_udpRow _)))
  | elseRow htodo hread =>
    exact hread.progresses_of_dispatchElse
      (blockMoves_at_row hread.readyToDispatch htodo (selectFrom_of_selectRow (selectRow_elseRow _)))

/-! ## The block never stops by itself (rules R35, R112) -/

theorem blockMoves_of_todo_nil {s : State} (h : s.todo = []) : blockMoves s = .next s := by
  rw [blockMoves, h]

/-- Settles O5: between decodes the block holds its state, and a decode in progress completes or goes on. -/
theorem blockNeverStopsByItself : Obligations.BlockNeverStopsByItself := by
  intro s hinv hin
  rw [step_of_no_input hin]
  obtain ⟨hidle, -⟩ | hdec := hinv.phase
  · exact ⟨s, blockMoves_of_todo_nil hidle.1⟩
  · obtain ⟨rep, hbound⟩ := hdec.boundFor
    obtain hdone | ⟨t, hmove, -⟩ := hbound.progresses
    · exact ⟨_, hdone⟩
    · exact ⟨t, hmove⟩

/-! ## The stepwise decode ends as the atomic one (rules R17, R37, R93, R110) -/

theorem runSteps_of_idle {s : State} (hin : s.inputs = []) (ht : s.todo = []) (n : Nat) : runSteps n s = .next s := by
  induction n with
  | zero => rfl
  | succ n ih => rw [runSteps_of_step ((step_of_no_input hin).trans (blockMoves_of_todo_nil ht)), ih]

/-- The block's own move leaves the frame. -/
theorem blockMoves_keeps_frame {s t : State} (h : blockMoves s = .next t) :
    t.fb = s.fb ∧ t.flen = s.flen ∧ t.fbEpoch = s.fbEpoch := by
  unfold blockMoves at h
  split at h
  · cases h
    exact ⟨rfl, rfl, rfl⟩
  · obtain ⟨i, -, hexec⟩ := withOperand_eq_next.1 h
    obtain ⟨hfb, hflen, -, -, hepoch⟩ := (exec_cases hexec).keeps_frame
    exact ⟨hfb, hflen, hepoch⟩

/-- The block's own move leaves everything that completing a decode does not replace. -/
theorem blockMoves_complete {s t : State} (h : blockMoves s = .next t) (rep : Report) :
    t.complete rep = s.complete rep := by
  obtain ⟨hinputs, hbuild⟩ := blockMoves_keeps h
  obtain ⟨hfb, hflen, hepoch⟩ := blockMoves_keeps_frame h
  simp only [State.complete, State.setRpt, State.endDecode, hfb, hflen, hbuild, hinputs, hepoch]

/-- However far a run has come, it has completed with the report or is still bound for it. -/
theorem State.BoundFor.of_runSteps {n : Nat} {s t : State} {rep : Report} (h : s.BoundFor rep) (hin : s.inputs = [])
    (hrun : runSteps n s = .next t) : t = s.complete rep ∨ t.BoundFor rep := by
  induction n generalizing s with
  | zero =>
    cases hrun
    exact .inr h
  | succ n ih =>
    obtain hdone | ⟨u, hmove, hu⟩ := h.progresses
    · rw [runSteps_of_step ((step_of_no_input hin).trans hdone), runSteps_of_idle (s := s.complete rep) hin rfl] at hrun
      exact .inl (Host.Outcome.next.inj hrun).symm
    · rw [runSteps_of_step ((step_of_no_input hin).trans hmove)] at hrun
      rw [← blockMoves_complete hmove]
      exact ih hu ((blockMoves_keeps hmove).1.trans hin) hrun

/-- A decode in progress that nothing disturbs completes with the report it is bound for, within eleven steps. -/
theorem State.BoundFor.completes {s : State} {rep : Report} (h : s.BoundFor rep) (hin : s.inputs = []) :
    ∃ k, k ≤ 11 ∧ runSteps k s = .next (s.complete rep) := by
  obtain ⟨k, t, hk, hrun, hidle, -⟩ := decodeEndsWithinElevenSteps s h.inDecode hin
  obtain rfl | hbound := h.of_runSteps hin hrun
  · exact ⟨k, hk, hrun⟩
  · exact absurd hidle.1 hbound.inDecode.todo_ne_nil

/-- A decode that begins stands at its first place. -/
theorem State.beginDecode_atPlace (s : State) : s.beginDecode.AtPlace 0 :=
  ⟨lt_length_decodePlaces (by decide) s.build, rfl, fun h => absurd h (by decide), rfl, rfl, rfl, rfl⟩

/-- Settles O44: after the hand-over the decode is bound for the report of the atomic decode, and completing it differs
in nothing from completing the atomic one. -/
theorem stepwiseDecodeEqualsAtomicDecode : Obligations.StepwiseDecodeEqualsAtomicDecode := by
  intro s frame n ht hf hn
  have hbound := State.BoundFor.beforeDispatch ((s.setInputs []).loadFrame frame n).beginDecode_atPlace (by decide)
  obtain ⟨k, hk, hrun⟩ := hbound.completes rfl
  rw [State.beginDecode_flen, loadFrame_flen_toNat _ frame hn] at hrun
  have hstart := step_start (s := { s with inputs := [.start frame n] }) rfl ht hf hn
  exact ⟨k + 1, _, Nat.succ_le_succ hk, step_present rfl ht hf hn, (runSteps_of_step hstart).trans hrun⟩

/-! ## The invariant: the block's own moves (rules R16, R17) -/

theorem State.inv_complete {s : State} {rep : Report} (hfb : s.fb.wf = true) (hlen : s.flen.toNat ≤ 1500)
    (h : rep.Consistent) : (s.complete rep).Inv :=
  ⟨hfb, hlen, .inl ⟨⟨rfl, rfl, rfl, rfl⟩, .inr ⟨rep, h, rfl⟩⟩⟩

theorem State.Inv.of_blockMoves {s t : State} (h : s.Inv) (hmove : blockMoves s = .next t) : t.Inv := by
  have ⟨hfb, hlen, hphase⟩ := h
  obtain ⟨hidle, -⟩ | hdec := hphase
  · cases (blockMoves_of_todo_nil hidle.1).symm.trans hmove
    exact h
  · obtain ⟨rep, hbound⟩ := hdec.boundFor
    obtain hdone | ⟨u, hnext, hu⟩ := hbound.progresses
    · cases hdone.symm.trans hmove
      exact State.inv_complete hfb hlen hbound.consistent
    · cases hnext.symm.trans hmove
      obtain ⟨hfb', hlen', -⟩ := blockMoves_keeps_frame hmove
      exact ⟨hfb' ▸ hfb, hlen' ▸ hlen, .inr hu.inDecode⟩

/-! ## The invariant: the events of the environment (rules R22, R136, R150 to R155) -/

theorem resetEvent_inv (s : State) : (resetEvent s).Inv :=
  ⟨rfl, Nat.zero_le 1500, .inl ⟨⟨rfl, rfl, rfl, rfl⟩, .inl rfl⟩⟩

/-- A hand-over keeps `FB` in canonical form and leaves a legal `FLEN`. -/
theorem State.Inv.loadFrame_legal {s : State} {frame : List Byte} {n : Nat} (h : s.Inv)
    (hf : framePresentable frame n = true) :
    (s.loadFrame frame n).fb.wf = true ∧ (s.loadFrame frame n).flen.toNat ≤ 1500 := by
  obtain ⟨hframe, hn⟩ := (framePresentable_iff _ _).1 hf
  exact ⟨Memory.wf_writeBytes frame 0 (by rwa [Nat.zero_add]) h.fbWf,
    Nat.le_trans (Nat.le_of_eq (loadFrame_flen_toNat s frame hn)) hn⟩

theorem State.Inv.of_presentEvent {s t : State} {frame : List Byte} {n : Nat} (h : s.Inv)
    (hev : presentEvent frame n s = .next t) : t.Inv := by
  obtain ⟨-, hf, hexec⟩ := handOver_eq_next hev
  obtain ⟨hfb, hlen⟩ := h.loadFrame_legal hf
  cases hexec
  exact State.inv_complete hfb hlen (decodeFrame_consistent _ _ _)

theorem State.Inv.of_startEvent {s t : State} {frame : List Byte} {n : Nat} (h : s.Inv)
    (hev : startEvent frame n s = .next t) : t.Inv := by
  obtain ⟨-, hf, hbegin⟩ := handOver_eq_next hev
  obtain ⟨hfb, hlen⟩ := h.loadFrame_legal hf
  cases hbegin
  exact ⟨hfb, hlen, .inr (.inl ⟨0, State.beginDecode_atPlace _⟩)⟩

/-- A byte at `FLEN` or above is none that a decode in progress has read. -/
theorem State.InDecode.write {s : State} {a : Nat} (b : Byte) (h : s.InDecode) (ha : s.flen.toNat ≤ a) :
    State.InDecode { s with fb := s.fb.write a b } := by
  have hip (hlen : 20 ≤ s.flen.toNat) :
      ipFieldsOf ({ s with fb := s.fb.write a b } : State).frameByte = ipFieldsOf s.frameByte := by
    refine ipFieldsOf_congr fun x hx => ?_
    have hheader : ∀ x ∈ [0, 2, 3, 9, 12, 13, 14, 15, 16, 17, 18, 19], x < 20 := by decide
    have hx := hheader x hx
    rw [State.frameByte_write, if_neg (by omega)]
  obtain ⟨done, hlt, htodo, hlen, hrpt, htoff, hfits⟩ | ⟨htodo, hlen, hrpt, htoff⟩ := h
  · left
    cases done with
    | zero => exact ⟨0, hlt, htodo, hlen, hrpt, htoff, hfits⟩
    | succ done =>
      have hip := hip (hlen (by omega))
      exact ⟨done + 1, hlt, htodo, hlen, hip.symm ▸ hrpt, hip.symm ▸ htoff, hfits⟩
  · have hip := hip hlen
    exact .inr ⟨htodo, hlen, hip.symm ▸ hrpt, hip.symm ▸ htoff⟩

theorem writeEvent_eq_next {s t : State} {a : Nat} {b : Byte} (h : writeEvent a b s = .next t) :
    a < 1500 ∧ (s.todo = [] ∨ s.flen.toNat ≤ a) ∧ t = { s with fb := s.fb.write a b } := by
  unfold writeEvent at h
  split at h
  · next ha =>
    split at h
    · cases h
    · next hbusy =>
      have hfree : s.todo = [] ∨ s.flen.toNat ≤ a :=
        (Decidable.em (s.todo = [])).imp id fun htodo => Nat.not_lt.1 fun ha => hbusy ⟨htodo, ha⟩
      exact ⟨ha, hfree, (Host.Outcome.next.inj h).symm⟩
  · cases h

theorem State.Inv.of_writeEvent {s t : State} {a : Nat} {b : Byte} (h : s.Inv) (hev : writeEvent a b s = .next t) :
    t.Inv := by
  obtain ⟨ha, hfree, rfl⟩ := writeEvent_eq_next hev
  refine ⟨Memory.wf_write b ha h.fbWf, h.flenLe, h.phase.imp id fun hdec => hdec.write b ?_⟩
  exact hfree.resolve_left hdec.todo_ne_nil

theorem setFlenEvent_eq_next {s t : State} {n : Nat} (h : setFlenEvent n s = .next t) :
    s.todo = [] ∧ n ≤ 1500 ∧ t = { s with flen := BitVec.ofNat 11 n } := by
  unfold setFlenEvent at h
  split at h
  · cases h
  · next htodo =>
    split at h
    · next hn => exact ⟨Decidable.not_not.1 htodo, hn, (Host.Outcome.next.inj h).symm⟩
    · cases h

theorem State.Inv.of_setFlenEvent {s t : State} {n : Nat} (h : s.Inv) (hev : setFlenEvent n s = .next t) : t.Inv := by
  obtain ⟨htodo, hn, rfl⟩ := setFlenEvent_eq_next hev
  refine ⟨h.fbWf, Nat.le_trans (Nat.le_of_eq (loadFrame_flen_toNat s [] hn)) hn, .inl (h.phase.resolve_right fun hdec => ?_)⟩
  exact hdec.todo_ne_nil htodo

theorem readReportEvent_eq_next {s t : State} (h : readReportEvent s = .next t) : t = s := by
  unfold readReportEvent at h
  split at h <;> cases h
  rfl

theorem readRegEvent_eq_next {s t : State} {reg : Reg} (h : readRegEvent reg s = .next t) : t = s := by
  unfold readRegEvent at h
  split at h <;> cases h
  rfl

theorem State.Inv.of_handleEvent {s t : State} (h : s.Inv) (e : Event) (hev : handleEvent e s = .next t) : t.Inv := by
  cases e with
  | reset =>
    cases hev
    exact resetEvent_inv s
  | present frame n => exact h.of_presentEvent hev
  | start frame n => exact h.of_startEvent hev
  | tick => exact h.of_blockMoves hev
  | write a b => exact h.of_writeEvent hev
  | setFlen n => exact h.of_setFlenEvent hev
  | readReport => exact readReportEvent_eq_next hev ▸ h
  | readReg reg => exact readRegEvent_eq_next hev ▸ h

/-- The invariant does not speak of what the environment does next. -/
theorem State.Inv.setInputs {s : State} (h : s.Inv) (es : List Event) : (s.setInputs es).Inv :=
  ⟨h.fbWf, h.flenLe, h.phase⟩

/-- Settles O4: the block's own move and every event keep the invariant. -/
theorem stepKeepsInvariant : Obligations.StepKeepsInvariant := by
  intro s t h hstep
  cases hin : s.inputs with
  | nil => exact h.of_blockMoves ((step_of_no_input hin).symm.trans hstep)
  | cons e es => exact (h.setInputs es).of_handleEvent e ((step_of_input hin).symm.trans hstep)

end Sys2Proof.Machine
end

section
/-! PROOFS. The outcomes of a frame: an allowed present decodes it, an idle block holds its report, and a status is
written only where the spec names it, `TooShort` only below 20 bytes (60_exceptions.md R120 to R122, R135, R136). -/

namespace Sys2Proof.Machine

/-! ## Who writes a status (rules R120, R121, R122) -/

/-- The dispatch of a frame ends in a decoded report or in `UnsupportedOrTruncated`, never in `TooShort`. -/
theorem dispatchReport_st_ne_tooShort (F : Nat → Byte) (n : Nat) (ip : IpFields) :
    (dispatchReport F n ip).toRpt.st ≠ some .tooShort := by
  rw [toRpt_dispatchReport]
  split
  · nofun
  · split <;> nofun

/-- A decode reports the status `TooShort` exactly below 20 bytes. -/
theorem decodeFrame_st_eq_tooShort_iff (chk : Bool) (F : Nat → Byte) (n : Nat) :
    (decodeFrame chk F n).toRpt.st = some .tooShort ↔ n < 20 := by
  obtain hlt | hle := Nat.lt_or_ge n 20
  · rw [decodeFrame_of_lt _ _ hlt]
    exact iff_of_true rfl hlt
  · refine iff_of_false ?_ (Nat.not_lt.2 hle)
    rw [decodeFrame_of_le _ _ hle]
    split
    · nofun
    · exact dispatchReport_st_ne_tooShort _ _ _

/-- What an operation does to the status: it leaves it, or it is one the spec names, and then `TooShort` comes only
from `DECODE` or `LENGUARD` below 20 bytes. -/
theorem ExecResult.keeps_or_writes_status {i : Instr} {s t : State} (h : ExecResult s i t) :
    t.rpt.st = s.rpt.st
      ∨ i ∈ [.decode, .lenguard, .ihlchk, .dispatchTcp, .dispatchUdp, .dispatchElse]
        ∧ (t.rpt.st = some .tooShort → i ∈ [.decode, .lenguard] ∧ s.flen.toNat < 20) := by
  cases h
  case decode =>
    exact .inr ⟨by decide, fun hst => ⟨by decide, (decodeFrame_st_eq_tooShort_iff _ _ _).1 hst⟩⟩
  case guardFails hlt => exact .inr ⟨by decide, fun _ => ⟨by decide, hlt⟩⟩
  case checkFails | tcpTaken | udpTaken | elseRaises => exact .inr ⟨by decide, nofun⟩
  all_goals exact .inl rfl

/-- Settles O36: by the inversion of `exec`, an operation that leaves the status as it was meets both clauses, and the
others are the named ones. -/
theorem statusWrittenOnlyWhereNamed : Obligations.StatusWrittenOnlyWhereNamed := by
  intro i s t h
  obtain hkept | ⟨hnamed, htooShort⟩ := (exec_cases h).keeps_or_writes_status
  · exact ⟨fun hne => absurd hkept hne, fun hst => .inl (hkept ▸ hst)⟩
  · exact ⟨fun _ => hnamed, fun hst => .inr (htooShort hst)⟩

/-- Settles O38: below 20 bytes the decode ends as the length guard does, in the row of R114 for `TooShort`. -/
theorem decodeReportsTooShort : Obligations.DecodeReportsTooShort := by
  intro s h
  rw [exec_decode, decodeFrame_of_lt _ _ h, ← raise_tooShort, raise_tooShort_eq_finishedWith]

/-! ## A frame presented, and the block between frames (rules R135, R136) -/

/-- Settles O9: the decoded state is the one the hand-over leaves, and every report a decode ends in has `RV` set. -/
theorem presentRunsDecodeOnFrame : Obligations.PresentRunsDecodeOnFrame := by
  intro s frame n es hin ht hf hn
  exact ⟨_, _, step_present_eq_exec hin ht hf hn, exec_decode _, loadFrame_flen_toNat _ frame hn,
    fun _ h => State.loadFrame_frameByte _ frame n h, fun _ ha => State.loadFrame_frameByte_of_le _ frame n ha,
    rfl, rfl, rfl, rfl, Report.toRpt_rv _⟩

/-- Settles O15: with no input the move is the block's own, and with no place to visit it makes none. -/
theorem idleBlockHoldsItsReport : Obligations.IdleBlockHoldsItsReport :=
  fun _ hin ht => (step_of_no_input hin).trans (blockMoves_of_todo_nil ht)

end Sys2Proof.Machine
end

section
/-! PROOFS. The reset event, and what a decode in progress refuses of the environment: a hand-over, and a change to the
frame or its length (70_reset_and_hazards.md R150, R151, R153, R154; 20_memory.md R37). -/

namespace Sys2Proof.Machine

/-! ## The reset event (rules R150, R151) -/

/-- A reset next in line is taken in every state. -/
theorem step_reset {s : State} {es : List Event} (h : s.inputs = .reset :: es) :
    step s = .next (resetEvent (s.setInputs es)) :=
  step_of_input h

/-- After reset `FB` lists no byte (assumption 2). -/
theorem resetEvent_fb_read (s : State) (a : Nat) : (resetEvent s).fb.read a = none := Memory.read_nil a

/-- Settles O2: the state answered is `resetEvent`, the reset state with the instance's build and the later inputs. -/
theorem resetEventAlwaysTaken : Obligations.ResetEventAlwaysTaken :=
  fun s es hin => ⟨_, step_reset hin, rfl, rfl, rfl, rfl, rfl, rfl, resetEvent_fb_read (s.setInputs es)⟩

/-! ## A decode in progress refuses a hand-over and a change to its frame (rules R37, R153, R154) -/

/-- A busy block refuses every hand-over, whatever was to follow it. -/
theorem handOver_of_todo_ne_nil {s : State} (frame : List Byte) (n : Nat)
    (k : State → Host.Outcome State Fault Refusal) (ht : s.todo ≠ []) :
    handOver frame n s k = .refused .decodeInProgress :=
  if_pos ht

/-- A busy block refuses a write below `FLEN`, which lies in the buffer. -/
theorem writeEvent_of_todo_ne_nil {s : State} {a : Nat} (b : Byte) (ht : s.todo ≠ []) (ha : a < s.flen.toNat)
    (hlen : s.flen.toNat ≤ 1500) : writeEvent a b s = .refused .frameChanged := by
  have hbuf : a < Config.maxf := Nat.lt_of_lt_of_le ha hlen
  rw [writeEvent, if_pos hbuf, if_pos ⟨ht, ha⟩]

/-- A busy block refuses every new length, a legal one too. -/
theorem setFlenEvent_of_todo_ne_nil {s : State} (n : Nat) (ht : s.todo ≠ []) :
    setFlenEvent n s = .refused .frameChanged :=
  if_pos ht

/-- Settles O11: present and start both begin with the hand-over. -/
theorem handOverDuringDecodeIsRefused : Obligations.HandOverDuringDecodeIsRefused := by
  intro s frame n es ht
  exact ⟨fun hin => (step_of_input hin).trans (handOver_of_todo_ne_nil frame n (exec .decode) ht),
    fun hin => (step_of_input hin).trans (handOver_of_todo_ne_nil frame n (fun s1 => .next s1.beginDecode) ht)⟩

/-- Settles O12: the length is refused outright, a byte because it lies below `FLEN`. -/
theorem frameChangeDuringDecodeIsRefused : Obligations.FrameChangeDuringDecodeIsRefused := by
  intro s es ht hlen
  exact ⟨fun n hin => (step_of_input hin).trans (setFlenEvent_of_todo_ne_nil n ht),
    fun a b ha hin => (step_of_input hin).trans (writeEvent_of_todo_ne_nil b ht ha hlen)⟩

end Sys2Proof.Machine
end

section
/-! PROOFS. The reset state meets the invariant, and words numbered as in the table: the micro-operation a word of each
format selects, and the fields and ports read back from the words of frame E1 (10_state.md R10 to R17; 30_encoding.md
R51 to R54; 95_test_vectors.md E1). -/

namespace Sys2Proof.Machine

/-! ## The reset state (rules R10, R11, R17) -/

/-- No place is left after reset (assumption 5), and nothing that lives inside a decode exists. -/
theorem State.reset_idle : State.reset.Idle := ⟨rfl, rfl, rfl, rfl⟩

/-- `RV` is 0 after reset: the report is the empty one. -/
theorem State.reset_whole : State.reset.rpt.Whole := .inl rfl

/-- Settles O3: `FB` lists nothing and `FLEN` is 0 (assumptions 1, 2), and the block is idle without a report. -/
theorem resetMeetsInvariant : Obligations.ResetMeetsInvariant where
  fbWf := rfl
  flenLe := Nat.zero_le 1500
  phase := .inl ⟨State.reset_idle, State.reset_whole⟩

/-! ## The micro-operation a word selects (rules R51, R52, R54; assumptions 7, 8) -/

theorem decodeTableWord_of_decode {nbits w : Nat} {i : Instr} (h : decode (wordBytes (nbits / 8) w) = .ok i) :
    decodeTableWord nbits w = some i := by
  simp only [decodeTableWord, h]

/-- A word of one byte goes through the dispatch map. -/
theorem decodeTableWord_byte (w : Nat) :
    decodeTableWord 8 w = some (if BitVec.ofNat 8 w = 6 then .dispatchTcp
      else if BitVec.ofNat 8 w = 17 then .dispatchUdp else .dispatchElse) :=
  decodeTableWord_of_decode (selectFrom_of_selectRow (selectRow_tcpRow (BitVec.ofNat 8 w)))

/-- A word of the length of format `IPH` is a whole frame's, whatever its bits. -/
theorem decodeTableWord_iph (w : Nat) : decodeTableWord 160 w = some .decode := decodeTableWord_of_decode rfl

/-- A word of the length of format `L4P` selects the first of that format's rows, whatever its bits. -/
theorem decodeTableWord_l4p (w : Nat) : decodeTableWord 32 w = some .xsport := decodeTableWord_of_decode rfl

/-! ## The fields of a word (rules R51, R52) -/

theorem listByte_holdsAt (bs : List Byte) : HoldsAt (listByte bs) 0 bs :=
  holdsAt_of_getElem fun i hi => by
    rw [Nat.zero_add, listByte, List.getD_eq_getElem bs 0 hi]

/-- The bytes of format `IPH`, as a list, are read back as the fields they encode. -/
theorem ipFieldsOf_listByte {bs : List Byte} {h : IpFields} (u : UnreadBytes) (hbs : bs = encodeIph h u) :
    ipFieldsOf (listByte bs) = h :=
  hbs ▸ ipFieldsOf_encodeIph (listByte_holdsAt (encodeIph h u))

/-- The bytes of format `L4P`, as a list, are read back as the ports they encode. -/
theorem portsAt_listByte {bs : List Byte} {sport dport : BitVec 16} (hbs : bs = encodePorts sport dport) :
    sourcePortAt (listByte bs) 0 = sport ∧ destPortAt (listByte bs) 0 = dport :=
  hbs ▸ portsAt_encodePorts (listByte_holdsAt (encodePorts sport dport))

/-- The 160-bit word of E1's header is its six fields, with 0x40 in byte 8 and 0 in the other unread bytes. -/
theorem wordBytes_headerE1 : wordBytes 20 0x4500002800000000400600000A0000010A000002 =
    encodeIph ⟨4, 5, 40, 6, ⟨10, 0, 0, 1⟩, ⟨10, 0, 0, 2⟩⟩ ⟨0, 0, 0, 0, 0, 0x40, 0, 0⟩ := by decide

/-- The 32-bit word of E1's ports. -/
theorem wordBytes_portsE1 : wordBytes 4 0x01BBC738 = encodePorts 443 51000 := by decide

/-- Settles O53: a word's length and, at the dispatch, its byte select the operation; the words of E1 are encodings of
E1's values, so those are read back. -/
theorem sampleWordsDecode : Obligations.SampleWordsDecode :=
  ⟨decodeTableWord_byte 0x06, decodeTableWord_byte 0x11, decodeTableWord_byte 0x01, decodeTableWord_iph _,
    decodeTableWord_l4p _, ipFieldsOf_listByte _ wordBytes_headerE1, portsAt_listByte wordBytes_portsE1⟩

end Sys2Proof.Machine
end
